-- ==== Sys2Proof/Word.lean ====
section
/-! DEFINITION. The fixed widths of the machine (`00_scope.md` R5): every value is an unsigned bit vector. -/

namespace Sys2Proof

/-- A memory cell, a general register, a timer (R5). -/
abbrev Byte := BitVec 8

/-- `I`, `pc`, a stack entry, an instruction word (R5). -/
abbrev Word := BitVec 16

/-- A one-nibble field of an instruction word, and a key number 0 to 15 (R51, R155). -/
abbrev Nibble := BitVec 4

/-- The 12-bit field `NNN` (R51). -/
abbrev Address := BitVec 12

/-- The index of a general register, 0 to 15 (`10_state.md` R10). -/
abbrev Reg := Fin 16

/-- Register 15, the flag output of six instructions (`10_state.md` R11). -/
abbrev vf : Reg := 15

end Sys2Proof
end

