-- ==== Sys2Proof/Syntax.lean ====
section
/-! DEFINITION. The 34 operation kinds of `30_encoding.md` R55, one constructor per row of the opcode table, under the
spec's own kind names. The outcome `unknown` (R57) is no kind and no row: the decoder rejects such a
word, and the cycle then changes nothing (R74). -/

namespace Sys2Proof

/-- An operation kind with its fields (R51, R55): `x`, `y` register indices, `nn` the 8-bit immediate, `nnn` the 12-bit
address, `n` the row count. Every term is well formed: each field's type is exactly its range. -/
inductive Instr where
  /-- 00E0, R120 -/
  | clearScreen
  /-- 00EE, R70 -/
  | returnSubroutine
  /-- 1NNN, R71 -/
  | jumpToAddress (nnn : Address)
  /-- 2NNN, R72 -/
  | callSubroutine (nnn : Address)
  /-- 3XNN, R80 -/
  | skipIfRegisterIsEqualToValue (x : Reg) (nn : Byte)
  /-- 4XNN, R81 -/
  | skipIfRegisterIsNotEqualToValue (x : Reg) (nn : Byte)
  /-- 5XY0, R82 -/
  | skipIfRegistersAreEqual (x y : Reg)
  /-- 6XNN, R90 -/
  | setRegister (x : Reg) (nn : Byte)
  /-- 7XNN, R91 -/
  | addToRegister (x : Reg) (nn : Byte)
  /-- 8XY0, R92 -/
  | copyRegister (x y : Reg)
  /-- 8XY1, R93 -/
  | or (x y : Reg)
  /-- 8XY2, R94 -/
  | and (x y : Reg)
  /-- 8XY3, R95 -/
  | xor (x y : Reg)
  /-- 8XY4, R96 -/
  | addRegistersWithCarry (x y : Reg)
  /-- 8XY5, R97 -/
  | subtractRxMinusRyWithBorrow (x y : Reg)
  /-- 8XY6, R98 -/
  | shiftRight (x y : Reg)
  /-- 8XY7, R99 -/
  | subtractRyMinusRxWithBorrow (x y : Reg)
  /-- 8XYE, R100 -/
  | shiftLeft (x y : Reg)
  /-- 9XY0, R83 -/
  | skipIfRegistersNotEqual (x y : Reg)
  /-- ANNN, R110 -/
  | setPointer (nnn : Address)
  /-- BNNN, R73 -/
  | jumpToAddressPlusR0 (nnn : Address)
  /-- CXNN, R101 -/
  | randomByte (x : Reg) (nn : Byte)
  /-- DXYN, R121 -/
  | drawSprite (x y : Reg) (n : Nibble)
  /-- EX9E, R122 -/
  | skipIfKeyPressed (x : Reg)
  /-- EXA1, R123 -/
  | skipIfKeyNotPressed (x : Reg)
  /-- FX07, R124 -/
  | getDelayTimer (x : Reg)
  /-- FX0A, R125 -/
  | awaitKeyPress (x : Reg)
  /-- FX15, R126 -/
  | setDelayTimer (x : Reg)
  /-- FX18, R127 -/
  | setSoundTimer (x : Reg)
  /-- FX1E, R111 -/
  | addToPointer (x : Reg)
  /-- FX29, R112 -/
  | getCharacterIndex (x : Reg)
  /-- FX33, R113 -/
  | toDecimal (x : Reg)
  /-- FX55, R114 -/
  | storeRegisters (x : Reg)
  /-- FX65, R115 -/
  | loadRegisters (x : Reg)
  deriving DecidableEq, Repr

/-- The six field layouts (R52). -/
inductive Format where
  /-- exact: all 16 bits fixed -/
  | E
  /-- `op NNN` -/
  | A
  /-- `op X NN` -/
  | I
  /-- `op X Y fn` -/
  | R
  /-- `op X Y N` -/
  | D
  /-- `op X` and a function byte -/
  | S
  deriving DecidableEq, Repr

/-- An operand of the assembler syntax (R60): a register, or a hexadecimal number. -/
inductive Operand where
  | reg (r : Reg)
  | number (n : Nat)
  deriving DecidableEq, Repr

end Sys2Proof
end

