-- ==== Sys2Proof/WellFormed.lean ====
section
/-! DEFINITION. Well-formedness that types do not already give. An `Instr` needs no check: every field's type is its
range (`30_encoding.md` R51). Memory is a list of cells in ONE canonical form, so that equal memories are equal
data (DESIGN CHOICE, log 20); the checks here say that form. -/

namespace Sys2Proof

/-- The memory of the machine: the cells that do not hold 0, by rising address (`10_state.md` R18; every cell is 0 when
the memory is created, `20_memory.md` R48). -/
abbrev Memory := List Host.Cell

/-- Every address of the memory is above `a`. -/
def Memory.allAbove (a : Nat) : Memory → Bool
  | [] => true
  | c :: m => decide (a < c.1) && Memory.allAbove a m

/-- Addresses rise strictly, so none is listed twice. -/
def Memory.rising : Memory → Bool
  | [] => true
  | c :: m => Memory.allAbove c.1 m && Memory.rising m

/-- No listed cell holds what an unlisted address reads as. -/
def Memory.noZero : Memory → Bool
  | [] => true
  | c :: m => decide (c.2 ≠ 0#8) && Memory.noZero m

/-- Every listed address exists: it is below `MEM_SIZE` (R30). -/
def Memory.below (size : Nat) : Memory → Bool
  | [] => true
  | c :: m => decide (c.1 < size) && Memory.below size m

/-- The canonical form. -/
def Memory.wf (m : Memory) : Bool := Memory.rising m && Memory.noZero m

end Sys2Proof
end

