-- ==== Sys2Proof/Decode.lean ====
section
/-! DEFINITION. The opcode decoder (`30_encoding.md`), a pure function of the word; after it the encoder, the opcode
table as data, and the assembler's names (R60). -/

namespace Sys2Proof

/-! ### Fields (R51) -/

/-- The primary opcode `w[15:12]`. -/
def fieldOp (w : Word) : Nibble := w.extractLsb' 12 4
/-- `X = (word >> 8) & 0xF`, `w[11:8]`. -/
def fieldX (w : Word) : Reg := (w.extractLsb' 8 4).toFin
/-- `Y = (word >> 4) & 0xF`, `w[7:4]`. -/
def fieldY (w : Word) : Reg := (w.extractLsb' 4 4).toFin
/-- `N = word & 0xF`, `w[3:0]`. -/
def fieldN (w : Word) : Nibble := w.extractLsb' 0 4
/-- `NN = word & 0xFF`, `w[7:0]`. -/
def fieldNN (w : Word) : Byte := w.extractLsb' 0 8
/-- `NNN = word & 0xFFF`, `w[11:0]`. -/
def fieldNNN (w : Word) : Address := w.extractLsb' 0 12

/-! ### The decode function (R53, R54) -/

/-- Why a word or a byte sequence is no instruction. -/
inductive Reject where
  /-- The outcome `unknown` (R57): a word that matches no row. The cycle that fetches it changes nothing (R74). Safe:
  the spec defines it so. -/
  | unknown (w : Word)
  /-- Fewer than the 2 bytes of an instruction (R50). Raised by `decodeBytes` only; a fetch always reads 2. -/
  | truncated
  deriving DecidableEq, Repr

/-- Top nibble 0x0: all 16 bits must match (R56, D14; DEDUCED, log 14). -/
def decode0 (w : Word) : Except Reject Instr :=
  if w = 0x00E0 then .ok .clearScreen
  else if w = 0x00EE then .ok .returnSubroutine
  else .error (.unknown w)

/-- Top nibble 0x8: the low nibble selects the function. -/
def decode8 (w : Word) : Except Reject Instr :=
  match (fieldN w).toNat with
  | 0x0 => .ok (.copyRegister (fieldX w) (fieldY w))
  | 0x1 => .ok (.or (fieldX w) (fieldY w))
  | 0x2 => .ok (.and (fieldX w) (fieldY w))
  | 0x3 => .ok (.xor (fieldX w) (fieldY w))
  | 0x4 => .ok (.addRegistersWithCarry (fieldX w) (fieldY w))
  | 0x5 => .ok (.subtractRxMinusRyWithBorrow (fieldX w) (fieldY w))
  | 0x6 => .ok (.shiftRight (fieldX w) (fieldY w))
  | 0x7 => .ok (.subtractRyMinusRxWithBorrow (fieldX w) (fieldY w))
  | 0xE => .ok (.shiftLeft (fieldX w) (fieldY w))
  | _ => .error (.unknown w)

/-- Top nibble 0xE: the low byte selects the function. -/
def decodeE (w : Word) : Except Reject Instr :=
  match (fieldNN w).toNat with
  | 0x9E => .ok (.skipIfKeyPressed (fieldX w))
  | 0xA1 => .ok (.skipIfKeyNotPressed (fieldX w))
  | _ => .error (.unknown w)

/-- Top nibble 0xF: the low byte selects the function. -/
def decodeF (w : Word) : Except Reject Instr :=
  match (fieldNN w).toNat with
  | 0x07 => .ok (.getDelayTimer (fieldX w))
  | 0x0A => .ok (.awaitKeyPress (fieldX w))
  | 0x15 => .ok (.setDelayTimer (fieldX w))
  | 0x18 => .ok (.setSoundTimer (fieldX w))
  | 0x1E => .ok (.addToPointer (fieldX w))
  | 0x29 => .ok (.getCharacterIndex (fieldX w))
  | 0x33 => .ok (.toDecimal (fieldX w))
  | 0x55 => .ok (.storeRegisters (fieldX w))
  | 0x65 => .ok (.loadRegisters (fieldX w))
  | _ => .error (.unknown w)

/-- `Decode(w)` (R53): dispatch by the top nibble, then by the remaining nibbles as enumerated. Total on all 65536 words. -/
def decode (w : Word) : Except Reject Instr :=
  match (fieldOp w).toNat with
  | 0x0 => decode0 w
  | 0x1 => .ok (.jumpToAddress (fieldNNN w))
  | 0x2 => .ok (.callSubroutine (fieldNNN w))
  | 0x3 => .ok (.skipIfRegisterIsEqualToValue (fieldX w) (fieldNN w))
  | 0x4 => .ok (.skipIfRegisterIsNotEqualToValue (fieldX w) (fieldNN w))
  | 0x5 => if fieldN w = 0 then .ok (.skipIfRegistersAreEqual (fieldX w) (fieldY w)) else .error (.unknown w)
  | 0x6 => .ok (.setRegister (fieldX w) (fieldNN w))
  | 0x7 => .ok (.addToRegister (fieldX w) (fieldNN w))
  | 0x8 => decode8 w
  | 0x9 => if fieldN w = 0 then .ok (.skipIfRegistersNotEqual (fieldX w) (fieldY w)) else .error (.unknown w)
  | 0xA => .ok (.setPointer (fieldNNN w))
  | 0xB => .ok (.jumpToAddressPlusR0 (fieldNNN w))
  | 0xC => .ok (.randomByte (fieldX w) (fieldNN w))
  | 0xD => .ok (.drawSprite (fieldX w) (fieldY w) (fieldN w))
  | 0xE => decodeE w
  | 0xF => decodeF w
  | _ => .error (.unknown w)

/-- The word whose high byte is `hi` and whose low byte is `lo`: the big-endian order of every 16-bit access
(`20_memory.md` R34, `30_encoding.md` R50). -/
def wordOfBytes (hi lo : Byte) : Word := hi ++ lo

/-- `w[15:8]`, the byte at the lower address (R35, R50). -/
def highByte (w : Word) : Byte := w.extractLsb' 8 8

/-- `w[7:0]`, the byte at the higher address (R35, R50). -/
def lowByte (w : Word) : Byte := w.extractLsb' 0 8

/-- Decoding a byte sequence: an instruction is its first 2 bytes (R50), the rest is handed back. -/
def decodeBytes : List Byte → Except Reject (Instr × List Byte)
  | hi :: lo :: rest =>
    match decode (wordOfBytes hi lo) with
    | .ok i => .ok (i, rest)
    | .error e => .error e
  | _ => .error .truncated

/-- The word the host means by bits `w` of an `nbits`-bit row: bits from `nbits` up are 0, and an instruction has 16 (R50). -/
def tableWord (nbits w : Nat) : Word := BitVec.ofNat 16 (w % 2 ^ nbits)

/-- The instruction the decoder reads from the bits `w`, numbered as `spec/opcode_table.json` numbers them, laid out
as the machine stores them. -/
def decodeTableWord (nbits w : Nat) : Option Instr :=
  match decodeBytes [highByte (tableWord nbits w), lowByte (tableWord nbits w)] with
  | .ok (i, _) => some i
  | .error _ => none

/-! ### The encoder (R52, R55) -/

/-- A register index as a field. -/
def regField (x : Reg) : Nibble := BitVec.ofFin x

/-- Format A: `op NNN`. -/
def formatA (op : Nibble) (nnn : Address) : Word := op ++ nnn
/-- Formats I and S: `op X` and a byte, the immediate `NN` or the function byte. -/
def formatI (op : Nibble) (x : Reg) (nn : Byte) : Word := op ++ regField x ++ nn
/-- Formats R and D: `op X Y` and a nibble, the function `fn` or the count `N`. -/
def formatR (op : Nibble) (x y : Reg) (n : Nibble) : Word := op ++ regField x ++ regField y ++ n

/-- The word of an instruction, by its pattern in R55. -/
def encode : Instr → Word
  | .clearScreen => 0x00E0
  | .returnSubroutine => 0x00EE
  | .jumpToAddress nnn => formatA 0x1 nnn
  | .callSubroutine nnn => formatA 0x2 nnn
  | .skipIfRegisterIsEqualToValue x nn => formatI 0x3 x nn
  | .skipIfRegisterIsNotEqualToValue x nn => formatI 0x4 x nn
  | .skipIfRegistersAreEqual x y => formatR 0x5 x y 0x0
  | .setRegister x nn => formatI 0x6 x nn
  | .addToRegister x nn => formatI 0x7 x nn
  | .copyRegister x y => formatR 0x8 x y 0x0
  | .or x y => formatR 0x8 x y 0x1
  | .and x y => formatR 0x8 x y 0x2
  | .xor x y => formatR 0x8 x y 0x3
  | .addRegistersWithCarry x y => formatR 0x8 x y 0x4
  | .subtractRxMinusRyWithBorrow x y => formatR 0x8 x y 0x5
  | .shiftRight x y => formatR 0x8 x y 0x6
  | .subtractRyMinusRxWithBorrow x y => formatR 0x8 x y 0x7
  | .shiftLeft x y => formatR 0x8 x y 0xE
  | .skipIfRegistersNotEqual x y => formatR 0x9 x y 0x0
  | .setPointer nnn => formatA 0xA nnn
  | .jumpToAddressPlusR0 nnn => formatA 0xB nnn
  | .randomByte x nn => formatI 0xC x nn
  | .drawSprite x y n => formatR 0xD x y n
  | .skipIfKeyPressed x => formatI 0xE x 0x9E
  | .skipIfKeyNotPressed x => formatI 0xE x 0xA1
  | .getDelayTimer x => formatI 0xF x 0x07
  | .awaitKeyPress x => formatI 0xF x 0x0A
  | .setDelayTimer x => formatI 0xF x 0x15
  | .setSoundTimer x => formatI 0xF x 0x18
  | .addToPointer x => formatI 0xF x 0x1E
  | .getCharacterIndex x => formatI 0xF x 0x29
  | .toDecimal x => formatI 0xF x 0x33
  | .storeRegisters x => formatI 0xF x 0x55
  | .loadRegisters x => formatI 0xF x 0x65

/-- The bytes of an instruction in memory, lowest address first (R50). -/
def encodeBytes (i : Instr) : List Byte := [highByte (encode i), lowByte (encode i)]

/-! ### The opcode map as data (R55) and the assembler's view (R60) -/

/-- A row of R55: the kind's name, its format, and the pair (match, mask). -/
structure OpcodeRow where
  mnemonic : String
  format : Format
  pattern : Word
  mask : Word
  deriving DecidableEq, Repr

/-- `w` is of the row's kind: `w & mask = match` (R55). -/
def OpcodeRow.matchesWord (r : OpcodeRow) (w : Word) : Bool := w &&& r.mask == r.pattern

/-- The rows of R55 for formats E, A, I and D. -/
def opcodeRowsEAID : List OpcodeRow :=
  [ ⟨"clearScreen", .E, 0x00E0, 0xFFFF⟩, ⟨"returnSubroutine", .E, 0x00EE, 0xFFFF⟩,
    ⟨"jumpToAddress", .A, 0x1000, 0xF000⟩, ⟨"callSubroutine", .A, 0x2000, 0xF000⟩,
    ⟨"skipIfRegisterIsEqualToValue", .I, 0x3000, 0xF000⟩,
    ⟨"skipIfRegisterIsNotEqualToValue", .I, 0x4000, 0xF000⟩,
    ⟨"setRegister", .I, 0x6000, 0xF000⟩, ⟨"addToRegister", .I, 0x7000, 0xF000⟩,
    ⟨"setPointer", .A, 0xA000, 0xF000⟩, ⟨"jumpToAddressPlusR0", .A, 0xB000, 0xF000⟩,
    ⟨"randomByte", .I, 0xC000, 0xF000⟩, ⟨"drawSprite", .D, 0xD000, 0xF000⟩ ]

/-- The rows of R55 for format R. -/
def opcodeRowsR : List OpcodeRow :=
  [ ⟨"skipIfRegistersAreEqual", .R, 0x5000, 0xF00F⟩, ⟨"copyRegister", .R, 0x8000, 0xF00F⟩,
    ⟨"or", .R, 0x8001, 0xF00F⟩, ⟨"and", .R, 0x8002, 0xF00F⟩, ⟨"xor", .R, 0x8003, 0xF00F⟩,
    ⟨"addRegistersWithCarry", .R, 0x8004, 0xF00F⟩,
    ⟨"subtractRxMinusRyWithBorrow", .R, 0x8005, 0xF00F⟩, ⟨"shiftRight", .R, 0x8006, 0xF00F⟩,
    ⟨"subtractRyMinusRxWithBorrow", .R, 0x8007, 0xF00F⟩, ⟨"shiftLeft", .R, 0x800E, 0xF00F⟩,
    ⟨"skipIfRegistersNotEqual", .R, 0x9000, 0xF00F⟩ ]

/-- The rows of R55 for format S. -/
def opcodeRowsS : List OpcodeRow :=
  [ ⟨"skipIfKeyPressed", .S, 0xE09E, 0xF0FF⟩, ⟨"skipIfKeyNotPressed", .S, 0xE0A1, 0xF0FF⟩,
    ⟨"getDelayTimer", .S, 0xF007, 0xF0FF⟩, ⟨"awaitKeyPress", .S, 0xF00A, 0xF0FF⟩,
    ⟨"setDelayTimer", .S, 0xF015, 0xF0FF⟩, ⟨"setSoundTimer", .S, 0xF018, 0xF0FF⟩,
    ⟨"addToPointer", .S, 0xF01E, 0xF0FF⟩, ⟨"getCharacterIndex", .S, 0xF029, 0xF0FF⟩,
    ⟨"toDecimal", .S, 0xF033, 0xF0FF⟩, ⟨"storeRegisters", .S, 0xF055, 0xF0FF⟩,
    ⟨"loadRegisters", .S, 0xF065, 0xF0FF⟩ ]

/-- The 34 rows of R55. -/
def opcodeTable : List OpcodeRow := opcodeRowsEAID ++ opcodeRowsR ++ opcodeRowsS

/-- The kind's name, as R55 and `spec/opcode_table.json` spell it. -/
def Instr.mnemonic : Instr → String
  | .clearScreen => "clearScreen"
  | .returnSubroutine => "returnSubroutine"
  | .jumpToAddress _ => "jumpToAddress"
  | .callSubroutine _ => "callSubroutine"
  | .skipIfRegisterIsEqualToValue _ _ => "skipIfRegisterIsEqualToValue"
  | .skipIfRegisterIsNotEqualToValue _ _ => "skipIfRegisterIsNotEqualToValue"
  | .skipIfRegistersAreEqual _ _ => "skipIfRegistersAreEqual"
  | .setRegister _ _ => "setRegister"
  | .addToRegister _ _ => "addToRegister"
  | .copyRegister _ _ => "copyRegister"
  | .or _ _ => "or"
  | .and _ _ => "and"
  | .xor _ _ => "xor"
  | .addRegistersWithCarry _ _ => "addRegistersWithCarry"
  | .subtractRxMinusRyWithBorrow _ _ => "subtractRxMinusRyWithBorrow"
  | .shiftRight _ _ => "shiftRight"
  | .subtractRyMinusRxWithBorrow _ _ => "subtractRyMinusRxWithBorrow"
  | .shiftLeft _ _ => "shiftLeft"
  | .skipIfRegistersNotEqual _ _ => "skipIfRegistersNotEqual"
  | .setPointer _ => "setPointer"
  | .jumpToAddressPlusR0 _ => "jumpToAddressPlusR0"
  | .randomByte _ _ => "randomByte"
  | .drawSprite _ _ _ => "drawSprite"
  | .skipIfKeyPressed _ => "skipIfKeyPressed"
  | .skipIfKeyNotPressed _ => "skipIfKeyNotPressed"
  | .getDelayTimer _ => "getDelayTimer"
  | .awaitKeyPress _ => "awaitKeyPress"
  | .setDelayTimer _ => "setDelayTimer"
  | .setSoundTimer _ => "setSoundTimer"
  | .addToPointer _ => "addToPointer"
  | .getCharacterIndex _ => "getCharacterIndex"
  | .toDecimal _ => "toDecimal"
  | .storeRegisters _ => "storeRegisters"
  | .loadRegisters _ => "loadRegisters"

/-- The operands in the order of the pattern's fields (R60). -/
def Instr.operands : Instr → List Operand
  | .clearScreen | .returnSubroutine => []
  | .jumpToAddress nnn | .callSubroutine nnn | .setPointer nnn | .jumpToAddressPlusR0 nnn => [.number nnn.toNat]
  | .skipIfRegisterIsEqualToValue x nn | .skipIfRegisterIsNotEqualToValue x nn | .setRegister x nn
  | .addToRegister x nn | .randomByte x nn => [.reg x, .number nn.toNat]
  | .skipIfRegistersAreEqual x y | .skipIfRegistersNotEqual x y | .copyRegister x y | .or x y | .and x y | .xor x y
  | .addRegistersWithCarry x y | .subtractRxMinusRyWithBorrow x y | .subtractRyMinusRxWithBorrow x y
  | .shiftRight x y | .shiftLeft x y => [.reg x, .reg y]
  | .drawSprite x y n => [.reg x, .reg y, .number n.toNat]
  | .skipIfKeyPressed x | .skipIfKeyNotPressed x | .getDelayTimer x | .awaitKeyPress x | .setDelayTimer x
  | .setSoundTimer x | .addToPointer x | .getCharacterIndex x | .toDecimal x | .storeRegisters x
  | .loadRegisters x => [.reg x]

/-- One hexadecimal digit in capitals (R60). -/
def hexDigit (n : Nat) : Char := "0123456789ABCDEF".toList.getD n '?'

/-- `n` in at least one and at most four hexadecimal digits, at least `width` of them. -/
def hexDigits (width n : Nat) : List Char :=
  ([3, 2, 1, 0].filter fun k => decide (k < width ∨ 16 ^ k ≤ n)).map fun k => hexDigit (n / 16 ^ k % 16)

/-- An operand as R60 writes it: `V` and a digit, or `0x` and the digits of its field's width. -/
def Operand.text (width : Nat) : Operand → List Char
  | .reg r => ['V', hexDigit r.val]
  | .number n => '0' :: 'x' :: hexDigits width n

/-- How many digits R60 writes a number of this kind with, by its examples (DEDUCED, log 21). -/
def Instr.numberWidth : Instr → Nat
  | .drawSprite _ _ _ => 1
  | .jumpToAddress _ | .callSubroutine _ | .setPointer _ | .jumpToAddressPlusR0 _ => 3
  | _ => 2

/-- The line of assembly for an instruction (R60): the kind's name, a blank, the operands separated by commas. -/
def Instr.assembly (i : Instr) : List Char :=
  match i.operands.map (Operand.text i.numberWidth) with
  | [] => i.mnemonic.toList
  | o :: os => i.mnemonic.toList ++ ' ' :: (o ++ (os.map fun p => ',' :: ' ' :: p).flatten)

end Sys2Proof
end

