-- ==== Sys2Proof/Config.lean ====
section
/-! DEFINITION. What an implementation fixes (`00_scope.md` R2, R3) and the free values: the answers of
the external devices (R4), about which the spec says nothing but their type. -/

namespace Sys2Proof

/-- The two open parameters of the machine, fixed when it is constructed (`10_state.md` R24).
DESIGN CHOICE (log 1): the machine carries them in its state, where no step writes them, so that a statement
about every state is a statement about every configuration. -/
structure Config where
  /-- `MEM_SIZE` (R2): the number of bytes of memory; 0 is allowed. -/
  memSize : Nat
  /-- `STACK_LIMIT` (R3): the most entries the call stack may hold; `none` is `unbounded`. -/
  stackLimit : Option Nat
  deriving DecidableEq, Repr

/-- The configuration of `State.reset`. PRESUMED (log 2): 4096 bytes, the family's customary size (G1).
DESIGN CHOICE (log 2): no stack bound, the core as the source describes it (D2). -/
def Config.customary : Config := { memSize := 4096, stackLimit := none }

/-- FREE VALUE (log 4): the byte the random source answers (`60_exceptions.md` R156) to the request that comes after
the given number of earlier device requests. -/
opaque Config.randomByte : Nat → Byte

/-- FREE VALUE (log 4): whether the keyboard says that a key is pressed (R155), at the given number of
earlier device requests. -/
opaque Config.keyPressed : Nat → Nibble → Bool

/-- FREE VALUE (log 4): whether the display reports a collision for `draw(x, y, rows)` (R154), at the given
number of earlier device requests. -/
opaque Config.drawCollided : Nat → Byte → Byte → List Byte → Bool

end Sys2Proof
end

