-- ==== Sys2Proof/Machine/State.lean ====
section
/-! DEFINITION. The state of the machine as plain data (`10_state.md`), its value after reset (R25), and the
reasons a step can stop. -/

namespace Sys2Proof.Machine

open Sys2Proof

/-- The names of the two faults (`60_exceptions.md` R140). -/
inductive FaultKind where
  | outOfBounds
  | stackOverflow
  deriving DecidableEq, Repr

/-- The cell `status` (`10_state.md` R19). -/
inductive Status where
  /-- the next cycle may start -/
  | running
  /-- a cycle has fetched `awaitKeyPress` and is held until the host delivers a key event -/
  | waiting
  /-- a fault was raised; no further cycle starts -/
  | faulted (f : FaultKind)
  deriving DecidableEq, Repr

/-- A move of the host that touches a machine under way (`60_exceptions.md` R150). A key is 0 to 15 (D11; UNVERIFIED, log 8). -/
inductive HostMove where
  | startCycle
  | timerTick
  | keyEvent (k : Nibble)
  deriving DecidableEq, Repr

/-- A request of the core to a device (`60_exceptions.md` R154 to R156). -/
inductive Request where
  | randomByte
  | isPressed (key : Nibble)
  | awaitKeyPress
  | draw (x y : Byte) (rows : List Byte)
  | clear
  deriving DecidableEq, Repr

/-- The MODEL's own record of what the outside world will do next (DESIGN CHOICE, log 3, log 4): the host's moves and the devices'
answers, oldest first. Every list is finite data; where one is empty, `HostMove.startCycle` respectively a free
value of Config stands in. -/
structure HostScript where
  moves : List HostMove
  randomBytes : List Byte
  pressed : List Bool
  collided : List Bool
  deriving DecidableEq, Repr

/-- The state (`10_state.md` R10 to R19). -/
structure State where
  /-- `V[0]` to `V[15]` (R10) -/
  v : Vector Byte 16
  /-- the data pointer `I` (R12) -/
  i : Word
  /-- between cycles the address of the next word, during a cycle that of the word being executed (R13) -/
  pc : Word
  /-- the call stack, pushed and popped at the END of the list (R16) -/
  stack : List Word
  /-- the delay timer `DT` (R17) -/
  dt : Byte
  /-- the sound timer `ST` (R17) -/
  st : Byte
  /-- the cells that do not hold 0 (R18, `20_memory.md` R48) -/
  mem : Memory
  /-- R19 -/
  status : Status
  /-- `MEM_SIZE` and `STACK_LIMIT`, which no step writes (R24; DESIGN CHOICE, log 1) -/
  config : Config
  /-- the MODEL's record of the device requests issued, oldest first (DESIGN CHOICE, log 5) -/
  requests : List Request
  /-- the MODEL's record of what the host will do and answer (DESIGN CHOICE, log 3, log 4) -/
  host : HostScript
  deriving DecidableEq, Repr

/-- Reset is construction (`70_reset_and_hazards.md` R160), at the size and limit the caller chooses: everything 0,
the stack empty, `running` (R25). Nothing is scripted of the host (DESIGN CHOICE, log 3, log 4). -/
def State.resetWith (c : Config) : State where
  v := Vector.replicate 16 0
  i := 0
  pc := 0
  stack := []
  dt := 0
  st := 0
  mem := []
  status := .running
  config := c
  requests := []
  host := { moves := [], randomBytes := [], pressed := [], collided := [] }

/-- The machine right after reset, in the configuration log 2 names. -/
def State.reset : State := State.resetWith Config.customary

/-- Why the machine stops. The spec's fault leaves a state behind (`60_exceptions.md` R146) that is never
continued (R147): the reason carries it, its `status` being `faulted` (DESIGN CHOICE, log 6). -/
inductive Fault where
  /-- Raised by the fetch, `drawSprite`, `toDecimal`, `storeRegisters` and `loadRegisters` when an accessor call
  fails `InRange` (R141), and by a host load that runs out of bounds (`loadImage`; DESIGN CHOICE, log 22); `addr` is
  that call's address, `left` the state the fault left. Safe: the spec stops here. -/
  | outOfBounds (addr : Int) (left : State)
  /-- Raised by `callSubroutine` when the stack holds `STACK_LIMIT` entries (R142). Safe: the spec stops here. -/
  | stackOverflow (left : State)
  /-- Raised by `step` on a machine that is already `faulted`: no further cycle starts (R147). Safe. -/
  | stopped (f : FaultKind) (left : State)
  deriving DecidableEq, Repr

/-- Why a step has no meaning. -/
inductive Refusal where
  /-- An arm of `exec` that has no meaning yet; raised by no arm of this model. Safe. -/
  | notModelled (mnemonic : String)
  /-- Raised by the delivery of a key event to a machine that is `waiting` although the word at `pc` is no
  `awaitKeyPress`: a state no run reaches, since a waiting machine's `pc` and memory do not change (R19). Safe. -/
  | noPendingAwait
  deriving DecidableEq, Repr

/-- What one instruction, or one move of the host, comes to. -/
abbrev Result := Host.Outcome State Fault Refusal

end Sys2Proof.Machine
end

