-- ==== Sys2Proof/Machine/Ops.lean ====
section
/-! DEFINITION. The named operations on registers, memory, the stack, the timers, faults and devices. Everything an
instruction does to the state goes through them. -/

namespace Sys2Proof.Machine

open Sys2Proof

/-! ### Registers (`10_state.md` R10, R12, R13) -/

/-- Read `V[r]`. -/
def getV (s : State) (r : Reg) : Byte := s.v[r]

/-- The whole register file replaced. -/
def setRegs (s : State) (u : Vector Byte 16) : State := { s with v := u }

/-- Write `V[r]`. -/
def setV (s : State) (r : Reg) (b : Byte) : State := setRegs s (s.v.set r b)

/-- Write `I`. -/
def setI (s : State) (w : Word) : State := { s with i := w }

/-- `pc <- t`, the control transfers' last statement (R14). -/
def setPc (s : State) (t : Word) : State := { s with pc := t }

/-- `pc <- (pc + 2) mod 65536`, the sequential class of R14 (wrap: R15, D5; DEDUCED, log 11). -/
def advance (s : State) : State := setPc s (s.pc + 2)

/-- The skip class of R14: 4 on the condition, else 2. -/
def skipIf (s : State) (cond : Bool) : State := setPc s (s.pc + if cond then 4 else 2)

/-! ### Faults (`60_exceptions.md` R140 to R147)

A fault is this machine's only exception: nothing is saved, there is no handler and no return (R145, R147). -/

/-- The state a fault leaves: what the statements before it left, with `status` recording it (R146, R21). -/
def faultedAt (s : State) (f : FaultKind) : State := { s with status := .faulted f }

/-- `raise OutOfBounds(addr)` (R141, R145). -/
def raiseOutOfBounds (addr : Int) (s : State) : Result := .fault (.outOfBounds addr (faultedAt s .outOfBounds))

/-- `raise StackOverflow` (R142, R145). -/
def raiseStackOverflow (s : State) : Result := .fault (.stackOverflow (faultedAt s .stackOverflow))

/-- Statements run in order; one that stops ends the instruction there (`10_state.md` R22). -/
def andThen (o : Result) (k : State → Result) : Result :=
  match o with
  | .next s => k s
  | .fault r => .fault r
  | .refused r => .refused r

/-! ### Memory (`20_memory.md`) -/

/-- The byte at address `a`; a cell that is not listed holds 0 (R48). -/
def memGet : Memory → Nat → Byte
  | [], _ => 0#8
  | c :: m, a => if c.1 = a then c.2 else memGet m a

/-- List the cell `(a, b)` before the first higher address; a cell that holds 0 is not listed. -/
def memInsert : Memory → Nat → Byte → Memory
  | [], a, b => if b = 0#8 then [] else [(a, b)]
  | c :: m, a, b => if a < c.1 then (if b = 0#8 then c :: m else (a, b) :: c :: m) else c :: memInsert m a b

/-- Store `b` at address `a`, keeping the canonical form. -/
def memSet (m : Memory) (a : Nat) (b : Byte) : Memory := memInsert (m.filter fun c => decide (c.1 ≠ a)) a b

/-- The whole memory replaced. -/
def setMem (s : State) (m : Memory) : State := { s with mem := m }

/-- `InRange(a)` (R31): an address is an integer, and a negative one fails. -/
def inRange (s : State) (a : Int) : Bool := decide (0 ≤ a ∧ a < s.config.memSize)

/-- `read_byte` (R32); `none` is `OutOfBounds(a)`. -/
def readByte (s : State) (a : Int) : Option Byte :=
  if inRange s a then some (memGet s.mem a.toNat) else none

/-- `write_byte` (R33); `none` is `OutOfBounds(a)`, with nothing written. -/
def writeByte (s : State) (a : Int) (b : Byte) : Option State :=
  if inRange s a then some (setMem s (memSet s.mem a.toNat b)) else none

/-- `read_short` (R34), big-endian; `none` is `OutOfBounds(a)`. -/
def readShort (s : State) (a : Int) : Option Word :=
  match readByte s a, readByte s (a + 1) with
  | some hi, some lo => some (wordOfBytes hi lo)
  | _, _ => none

/-- `write_short` (R35): high byte, then low byte, or neither. No instruction uses it; the host does. -/
def writeShort (s : State) (a : Int) (w : Word) : Option State :=
  if inRange s (a + 1) then
    match writeByte s a (highByte w) with
    | some t => writeByte t (a + 1) (lowByte w)
    | none => none
  else none

/-- Bytes stored at rising addresses from `a` (R40); the first failing access stops, what was stored stays (R42). -/
def storeBytes : List Byte → Int → State → Result
  | [], _, s => .next s
  | b :: bs, a, s =>
    match writeByte s a b with
    | some t => storeBytes bs (a + 1) t
    | none => raiseOutOfBounds a s

/-- Registers loaded from rising addresses from `a` (R40, R42). -/
def loadBytes : List Reg → Int → State → Result
  | [], _, s => .next s
  | r :: rs, a, s =>
    match readByte s a with
    | some b => loadBytes rs (a + 1) (setV s r b)
    | none => raiseOutOfBounds a s

/-- `n` bytes read at rising addresses from `a` (R40, D23), or the first address that fails. -/
def readBytes (s : State) : Nat → Int → Except Int (List Byte)
  | 0, _ => .ok []
  | n + 1, a =>
    match readByte s a with
    | none => .error a
    | some b =>
      match readBytes s n (a + 1) with
      | .ok bs => .ok (b :: bs)
      | .error e => .error e

/-- The driver's fetch, `MemRead(pc, 2)` (`10_state.md` R21): `pc + 1` is not wrapped. -/
def fetch (s : State) : Option Word := readShort s s.pc.toNat

/-- The host's load of a program before the first cycle (`70_reset_and_hazards.md` R162, `20_memory.md` R49), byte by byte
through `write_byte`. No step does this. What a load that runs out of bounds leaves the spec does not say (R19 gives
`faulted` for an `execute` or a fetch only; R140 lists the host's accessor calls). DESIGN CHOICE (log 22): the load stops
there as an instruction's transfer does, the bytes before it stay, and `status` is `faulted`. -/
def loadImage (a : Int) (bytes : List Byte) (s : State) : Result := storeBytes bytes a s

/-! ### The call stack (`10_state.md` R16) -/

/-- Whether `STACK_LIMIT` is finite and `depth = STACK_LIMIT` (`40_flow.md` R72). -/
def stackFull (s : State) : Bool := decide (s.config.stackLimit = some s.stack.length)

/-- `push(w)`: at the end. -/
def push (s : State) (w : Word) : State := { s with stack := s.stack ++ [w] }

/-- The last entry, if there is one. -/
def top (s : State) : Option Word := s.stack.getLast?

/-- Remove the last entry. -/
def dropTop (s : State) : State := { s with stack := s.stack.dropLast }

/-! ### Timers (`10_state.md` R17, `60_exceptions.md` R153) -/

/-- Write `DT`. -/
def setDT (s : State) (b : Byte) : State := { s with dt := b }

/-- Write `ST`. -/
def setST (s : State) (b : Byte) : State := { s with st := b }

/-- One countdown step: a timer at 0 stays there (G6; PRESUMED, log 9). -/
def countDown (b : Byte) : Byte := if b = 0 then 0 else b - 1

/-- The host's `TimerTick` (R153): both timers together. -/
def tickTimers (s : State) : State := { s with dt := countDown s.dt, st := countDown s.st }

/-! ### Devices (`60_exceptions.md` R154 to R157)

A request is recorded; its answer is the host's next scripted one, or, where none is scripted, a free value of
Config at the number of requests made so far (DESIGN CHOICE, log 4, log 5). -/

/-- Issue a request. -/
def issue (s : State) (r : Request) : State := { s with requests := s.requests ++ [r] }

/-- What the random source answers now (R156). -/
def randomAnswer (s : State) : Byte :=
  match s.host.randomBytes with
  | b :: _ => b
  | [] => Config.randomByte s.requests.length

/-- One call of the random source. -/
def askRandom (s : State) : State :=
  { issue s .randomByte with host := { s.host with randomBytes := s.host.randomBytes.tail } }

/-- What `is_pressed(k)` answers now (R155). -/
def pressedAnswer (s : State) (k : Nibble) : Bool :=
  match s.host.pressed with
  | b :: _ => b
  | [] => Config.keyPressed s.requests.length k

/-- One call of `is_pressed(k)`. -/
def askPressed (s : State) (k : Nibble) : State :=
  { issue s (.isPressed k) with host := { s.host with pressed := s.host.pressed.tail } }

/-- What `draw(x, y, rows)` answers now (R154). -/
def collidedAnswer (s : State) (x y : Byte) (rows : List Byte) : Bool :=
  match s.host.collided with
  | b :: _ => b
  | [] => Config.drawCollided s.requests.length x y rows

/-- One call of `draw(x, y, rows)`. -/
def askDraw (s : State) (x y : Byte) (rows : List Byte) : State :=
  { issue s (.draw x y rows) with host := { s.host with collided := s.host.collided.tail } }

/-! ### The host's moves (`60_exceptions.md` R150) -/

/-- Write `status`. -/
def setStatus (s : State) (x : Status) : State := { s with status := x }

/-- The host's next move; with nothing scripted it starts the next cycle (DESIGN CHOICE, log 3). -/
def nextMove (s : State) : HostMove :=
  match s.host.moves with
  | m :: _ => m
  | [] => .startCycle

/-- The scripted move is made. -/
def dropMove (s : State) : State := { s with host := { s.host with moves := s.host.moves.tail } }

end Sys2Proof.Machine
end

