-- ==== Sys2Proof/Machine/Flags.lean ====
section
/-! DEFINITION. The arithmetic and every flag computation (`42_alu.md` R102): the value is computed exactly, on
integers; the register receives it mod 256; the flag is read off the exact value. -/

namespace Sys2Proof.Machine

open Sys2Proof

/-- A flag as the byte written to VF, 1 or 0. -/
def flagByte (b : Bool) : Byte := if b then 1 else 0

/-- Write VF (`10_state.md` R11). -/
def setFlag (s : State) (b : Bool) : State := setV s vf (flagByte b)

/-- `sum`, 0 to 510. -/
def exactSum (a b : Byte) : Nat := a.toNat + b.toNat

/-- `diff`, -255 to 255. -/
def exactDiff (a b : Byte) : Int := (a.toNat : Int) - b.toNat

/-- `sum mod 256`. -/
def wrapSum (a b : Byte) : Byte := BitVec.ofNat 8 (exactSum a b)

/-- `diff mod 256`, the least non-negative residue. -/
def wrapDiff (a b : Byte) : Byte := BitVec.ofInt 8 (exactDiff a b)

/-- Carry: `sum > 255` (R96). -/
def carry (a b : Byte) : Bool := decide (exactSum a b > 255)

/-- Not-borrow: not `diff < 0` (R97, R99). -/
def notBorrow (a b : Byte) : Bool := !decide (exactDiff a b < 0)

/-- The bit shifted out to the right, `b & 1` (R98). -/
def lowBit (b : Byte) : Bool := b.getLsbD 0

/-- The bit shifted out to the left, `(b >> 7) & 1` (R100). -/
def highBit (b : Byte) : Bool := b.getLsbD 7

/-- `b >> 1`, logical (R98). -/
def shiftedRight (b : Byte) : Byte := b >>> 1

/-- `(b << 1) mod 256` (R100). -/
def shiftedLeft (b : Byte) : Byte := b <<< 1

end Sys2Proof.Machine
end

