-- ==== Sys2Proof/Machine/Operands.lean ====
section
/-! DEFINITION. Operand forms: how a field or a register becomes an address, a target, a key, a glyph, a digit. -/

namespace Sys2Proof.Machine

open Sys2Proof

/-- `zext_16(NNN)`: a target or a pointer value (`30_encoding.md` R58). -/
def zextAddress (nnn : Address) : Word := nnn.setWidth 16

/-- `zext_16(b)`. -/
def zextByte (b : Byte) : Word := b.setWidth 16

/-- The integer address `I + k`, not reduced (`20_memory.md` R41, D6). -/
def pointerAddress (s : State) (k : Nat) : Int := (s.i.toNat : Int) + k

/-- The key `V[X] & 0xF` (`44_devices_timers.md` R122). -/
def keyOperand (s : State) (x : Reg) : Nibble := (getV s x).setWidth 4

/-- `(V[X] & 0xF) * 5`, the address of a glyph (`43_pointer_memory.md` R112). -/
def glyphAddress (b : Byte) : Word := zextByte (b &&& 0x0F) * 5

/-- Hundreds, tens and ones, each in its own byte (`43_pointer_memory.md` R113). -/
def decimalDigits (b : Byte) : List Byte :=
  [BitVec.ofNat 8 (b.toNat / 100), BitVec.ofNat 8 (b.toNat / 10 % 10), BitVec.ofNat 8 (b.toNat % 10)]

/-- The registers `V[0]` to `V[X]`, ascending (`43_pointer_memory.md` R114, R115). -/
def registersThrough (x : Reg) : List Reg :=
  List.take (x.val + 1) [0, 1, 2, 3, 4, 5, 6, 7, 8, 9, 10, 11, 12, 13, 14, 15]

/-- `(I + X + 1) mod 65536` (R114, R115; wrap: `10_state.md` R15). -/
def pointerPast (s : State) (x : Reg) : Word := s.i + BitVec.ofNat 16 (x.val + 1)

end Sys2Proof.Machine
end

