-- ==== Sys2Proof/Machine/Alu.lean ====
section
/-! DEFINITION. Register load, arithmetic, logic, shifts and the random byte (`42_alu.md`). The statements of a rule run
in its order, each seeing the writes before it (`10_state.md` R22), which decides the result when a field is 15
(R103, D3; DEDUCED, log 10). -/

namespace Sys2Proof.Machine

open Sys2Proof

/-- `V[X] <- b`, then the sequential `pc` update: the shape of every instruction that writes one register. -/
def writeAndAdvance (s : State) (x : Reg) (b : Byte) : Result := .next (advance (setV s x b))

/-- `V[X]` first, then VF: the shape of the three flag-writing sums and differences (R103). -/
def writeThenFlag (s : State) (x : Reg) (b : Byte) (flag : Bool) : Result :=
  .next (advance (setFlag (setV s x b) flag))

/-- VF first, then `V[X]` from `V[Y]` read AGAIN: the shape of the two shifts (R103). -/
def flagThenShift (s : State) (x y : Reg) (flag : Byte → Bool) (shift : Byte → Byte) : Result :=
  let t := setFlag s (flag (getV s y))
  .next (advance (setV t x (shift (getV t y))))

/-- R90. -/
def execSetRegister (x : Reg) (nn : Byte) (s : State) : Result := writeAndAdvance s x nn

/-- R91: no flag. -/
def execAddToRegister (x : Reg) (nn : Byte) (s : State) : Result := writeAndAdvance s x (wrapSum (getV s x) nn)

/-- R92. -/
def execCopyRegister (x y : Reg) (s : State) : Result := writeAndAdvance s x (getV s y)

/-- R93: VF is not written. -/
def execOr (x y : Reg) (s : State) : Result := writeAndAdvance s x (getV s x ||| getV s y)

/-- R94: VF is not written. -/
def execAnd (x y : Reg) (s : State) : Result := writeAndAdvance s x (getV s x &&& getV s y)

/-- R95: VF is not written. -/
def execXor (x y : Reg) (s : State) : Result := writeAndAdvance s x (getV s x ^^^ getV s y)

/-- R96. -/
def execAddRegistersWithCarry (x y : Reg) (s : State) : Result :=
  writeThenFlag s x (wrapSum (getV s x) (getV s y)) (carry (getV s x) (getV s y))

/-- R97. -/
def execSubtractRxMinusRyWithBorrow (x y : Reg) (s : State) : Result :=
  writeThenFlag s x (wrapDiff (getV s x) (getV s y)) (notBorrow (getV s x) (getV s y))

/-- R98. -/
def execShiftRight (x y : Reg) (s : State) : Result := flagThenShift s x y lowBit shiftedRight

/-- R99: the operands of R97 exchanged; the destination is still `V[X]`. -/
def execSubtractRyMinusRxWithBorrow (x y : Reg) (s : State) : Result :=
  writeThenFlag s x (wrapDiff (getV s y) (getV s x)) (notBorrow (getV s y) (getV s x))

/-- R100. -/
def execShiftLeft (x y : Reg) (s : State) : Result := flagThenShift s x y highBit shiftedLeft

/-- R101: the random source is called once, whatever `NN` is; its answer is free (D17, log 4). -/
def execRandomByte (x : Reg) (nn : Byte) (s : State) : Result :=
  writeAndAdvance (askRandom s) x (randomAnswer s &&& nn)

end Sys2Proof.Machine
end

