-- ==== Sys2Proof/Machine/Devices.lean ====
section
/-! DEFINITION. Display, keyboard and timer instructions (`44_devices_timers.md`). An instruction issues at most one
device request (`60_exceptions.md` R157). -/

namespace Sys2Proof.Machine

open Sys2Proof

/-- R120. -/
def execClearScreen (s : State) : Result := .next (advance (issue s .clear))

/-- The call of `draw` and what follows it (R121): VF takes the answer (D18, log 4). -/
def drawRows (x y : Reg) (rows : List Byte) (s : State) : Result :=
  .next (advance (setFlag (askDraw s (getV s x) (getV s y) rows) (collidedAnswer s (getV s x) (getV s y) rows)))

/-- R121: all rows are read before the one call of `draw`; `N = 0` reads nothing and still calls it (D19, D23; DEDUCED, log 17). -/
def execDrawSprite (x y : Reg) (n : Nibble) (s : State) : Result :=
  match readBytes s n.toNat (pointerAddress s 0) with
  | .ok rows => drawRows x y rows s
  | .error addr => raiseOutOfBounds addr s

/-- R122: the answer is free (D10, log 4). -/
def execSkipIfKeyPressed (x : Reg) (s : State) : Result :=
  .next (skipIf (askPressed s (keyOperand s x)) (pressedAnswer s (keyOperand s x)))

/-- R123. -/
def execSkipIfKeyNotPressed (x : Reg) (s : State) : Result :=
  .next (skipIf (askPressed s (keyOperand s x)) (!pressedAnswer s (keyOperand s x)))

/-- R124. -/
def execGetDelayTimer (x : Reg) (s : State) : Result := .next (advance (setV s x s.dt))

/-- The end of `awaitKeyPress` on delivery of key `k` (R125): the key zero-extended, `pc` past the word, `running`. -/
def takeKey (x : Reg) (k : Nibble) (s : State) : Result :=
  .next (setStatus (advance (setV s x (k.setWidth 8))) .running)

/-- R125: the cycle asks the keyboard and holds: the machine is `waiting`, and nothing else changes. No key event is ever
at hand here, because the host delivers one to a waiting machine only, never inside an `execute` (`60_exceptions.md`
R150, D10; DEDUCED, log 7); the key goes to the named register on its delivery (`deliverKey`). -/
def execAwaitKeyPress (_x : Reg) (s : State) : Result := .next (setStatus (issue s .awaitKeyPress) .waiting)

/-- R126. -/
def execSetDelayTimer (x : Reg) (s : State) : Result := .next (advance (setDT s (getV s x)))

/-- R127: no device is called. -/
def execSetSoundTimer (x : Reg) (s : State) : Result := .next (advance (setST s (getV s x)))

/-- The host's `KeyEvent(k)` to a waiting machine (`60_exceptions.md` R150): the pending word is again the one at
`pc` (`10_state.md` R19). -/
def deliverKey (k : Nibble) (s : State) : Result :=
  match (fetch s).map decode with
  | some (.ok (.awaitKeyPress x)) => takeKey x k s
  | _ => .refused .noPendingAwait

end Sys2Proof.Machine
end

