-- ==== Sys2Proof/Machine/Flow.lean ====
section
/-! DEFINITION. Control transfer and the unknown word (`40_flow.md`). During an instruction `pc` is its own address. -/

namespace Sys2Proof.Machine

open Sys2Proof

/-- R70: pop into `pc`, adding nothing; on an empty stack nothing changes (D24; DEDUCED, log 13). -/
def execReturnSubroutine (s : State) : Result :=
  match top s with
  | some t => .next (setPc (dropTop s) t)
  | none => .next s

/-- R71. -/
def execJumpToAddress (nnn : Address) (s : State) : Result := .next (setPc s (zextAddress nnn))

/-- R72: the address pushed is the call's own (D25; DEDUCED, log 12). -/
def execCallSubroutine (nnn : Address) (s : State) : Result :=
  if stackFull s then raiseStackOverflow s
  else .next (setPc (push s s.pc) (zextAddress nnn))

/-- R73: the offset register is always `V[0]`; the sum is at most 0x10FE. -/
def execJumpToAddressPlusR0 (nnn : Address) (s : State) : Result :=
  .next (setPc s (zextAddress nnn + zextByte (getV s 0)))

/-- R74: a word of no kind changes nothing, `pc` included. -/
def execUnknown (s : State) : Result := .next s

end Sys2Proof.Machine
end

