-- ==== Sys2Proof/Machine/Pointer.lean ====
section
/-! DEFINITION. Data pointer and memory instructions (`43_pointer_memory.md`). An access that fails stops the instruction:
`I` and `pc` keep their values, earlier transfers stay (`20_memory.md` R42). -/

namespace Sys2Proof.Machine

open Sys2Proof

/-- R110. -/
def execSetPointer (nnn : Address) (s : State) : Result := .next (advance (setI s (zextAddress nnn)))

/-- R111: mod 65536, no flag (D5; DEDUCED, log 11). -/
def execAddToPointer (x : Reg) (s : State) : Result := .next (advance (setI s (s.i + zextByte (getV s x))))

/-- R112: no memory is touched. -/
def execGetCharacterIndex (x : Reg) (s : State) : Result := .next (advance (setI s (glyphAddress (getV s x))))

/-- R113: `I` is not changed. -/
def execToDecimal (x : Reg) (s : State) : Result :=
  andThen (storeBytes (decimalDigits (getV s x)) (pointerAddress s 0) s) fun t => .next (advance t)

/-- R114: `I` is written once, after the last transfer (D7; DEDUCED, log 16). -/
def execStoreRegisters (x : Reg) (s : State) : Result :=
  andThen (storeBytes ((registersThrough x).map (getV s)) (pointerAddress s 0) s) fun t =>
    .next (advance (setI t (pointerPast s x)))

/-- R115: `I` is written once, after the last transfer (D7; DEDUCED, log 16). -/
def execLoadRegisters (x : Reg) (s : State) : Result :=
  andThen (loadBytes (registersThrough x) (pointerAddress s 0) s) fun t =>
    .next (advance (setI t (pointerPast s x)))

end Sys2Proof.Machine
end

