-- ==== Sys2Proof/Machine/Skip.lean ====
section
/-! DEFINITION. Conditional skips on registers (`41_skip.md`). -/

namespace Sys2Proof.Machine

open Sys2Proof

/-- R80. -/
def execSkipIfRegisterIsEqualToValue (x : Reg) (nn : Byte) (s : State) : Result :=
  .next (skipIf s (decide (getV s x = nn)))

/-- R81. -/
def execSkipIfRegisterIsNotEqualToValue (x : Reg) (nn : Byte) (s : State) : Result :=
  .next (skipIf s (decide (getV s x ≠ nn)))

/-- R82. -/
def execSkipIfRegistersAreEqual (x y : Reg) (s : State) : Result :=
  .next (skipIf s (decide (getV s x = getV s y)))

/-- R83. -/
def execSkipIfRegistersNotEqual (x y : Reg) (s : State) : Result :=
  .next (skipIf s (decide (getV s x ≠ getV s y)))

end Sys2Proof.Machine
end

