-- ==== Sys2Proof/Machine/Dispatch.lean ====
section
/-! DEFINITION. The engine's dispatch on the operation kind (`10_state.md` R22, stage 3). -/

namespace Sys2Proof.Machine

open Sys2Proof

def exec (i : Instr) (s : State) : Host.Outcome State Fault Refusal :=
  match i with
  | .clearScreen => Sys2Proof.Machine.execClearScreen s
  | .returnSubroutine => Sys2Proof.Machine.execReturnSubroutine s
  | .jumpToAddress nnn => Sys2Proof.Machine.execJumpToAddress nnn s
  | .callSubroutine nnn => Sys2Proof.Machine.execCallSubroutine nnn s
  | .skipIfRegisterIsEqualToValue x nn => Sys2Proof.Machine.execSkipIfRegisterIsEqualToValue x nn s
  | .skipIfRegisterIsNotEqualToValue x nn => Sys2Proof.Machine.execSkipIfRegisterIsNotEqualToValue x nn s
  | .skipIfRegistersAreEqual x y => Sys2Proof.Machine.execSkipIfRegistersAreEqual x y s
  | .setRegister x nn => Sys2Proof.Machine.execSetRegister x nn s
  | .addToRegister x nn => Sys2Proof.Machine.execAddToRegister x nn s
  | .copyRegister x y => Sys2Proof.Machine.execCopyRegister x y s
  | .or x y => Sys2Proof.Machine.execOr x y s
  | .and x y => Sys2Proof.Machine.execAnd x y s
  | .xor x y => Sys2Proof.Machine.execXor x y s
  | .addRegistersWithCarry x y => Sys2Proof.Machine.execAddRegistersWithCarry x y s
  | .subtractRxMinusRyWithBorrow x y => Sys2Proof.Machine.execSubtractRxMinusRyWithBorrow x y s
  | .shiftRight x y => Sys2Proof.Machine.execShiftRight x y s
  | .subtractRyMinusRxWithBorrow x y => Sys2Proof.Machine.execSubtractRyMinusRxWithBorrow x y s
  | .shiftLeft x y => Sys2Proof.Machine.execShiftLeft x y s
  | .skipIfRegistersNotEqual x y => Sys2Proof.Machine.execSkipIfRegistersNotEqual x y s
  | .setPointer nnn => Sys2Proof.Machine.execSetPointer nnn s
  | .jumpToAddressPlusR0 nnn => Sys2Proof.Machine.execJumpToAddressPlusR0 nnn s
  | .randomByte x nn => Sys2Proof.Machine.execRandomByte x nn s
  | .drawSprite x y n => Sys2Proof.Machine.execDrawSprite x y n s
  | .skipIfKeyPressed x => Sys2Proof.Machine.execSkipIfKeyPressed x s
  | .skipIfKeyNotPressed x => Sys2Proof.Machine.execSkipIfKeyNotPressed x s
  | .getDelayTimer x => Sys2Proof.Machine.execGetDelayTimer x s
  | .awaitKeyPress x => Sys2Proof.Machine.execAwaitKeyPress x s
  | .setDelayTimer x => Sys2Proof.Machine.execSetDelayTimer x s
  | .setSoundTimer x => Sys2Proof.Machine.execSetSoundTimer x s
  | .addToPointer x => Sys2Proof.Machine.execAddToPointer x s
  | .getCharacterIndex x => Sys2Proof.Machine.execGetCharacterIndex x s
  | .toDecimal x => Sys2Proof.Machine.execToDecimal x s
  | .storeRegisters x => Sys2Proof.Machine.execStoreRegisters x s
  | .loadRegisters x => Sys2Proof.Machine.execLoadRegisters x s

end Sys2Proof.Machine
end

