-- ==== Sys2Proof/Machine/Cycle.lean ====
section
/-! DEFINITION. One cycle: the driver's fetch and the engine's `execute` (`10_state.md` R21, R22, D16; DEDUCED, log 18), and one move of the
host on a machine that is running or waiting (`60_exceptions.md` R150). -/

namespace Sys2Proof.Machine

open Sys2Proof

/-- `Execute(w)` (R22): decode, extract, apply; a word of no kind changes nothing (R74). -/
def execute (w : Word) (s : State) : Result :=
  match decode w with
  | .ok i => exec i s
  | .error _ => execUnknown s

/-- `Cycle` (R21): a failing fetch names `pc`, whichever of its two bytes is out of range (R141). -/
def cycle (s : State) : Result :=
  match fetch s with
  | some w => execute w s
  | none => raiseOutOfBounds s.pc.toNat s

/-- A move of the host while the machine is running (R150): a key event then changes no core state. -/
def moveWhileRunning (m : HostMove) (s : State) : Result :=
  match m with
  | .startCycle => cycle s
  | .timerTick => .next (tickTimers s)
  | .keyEvent _ => .next s

/-- A move of the host while the machine is waiting (R150): no cycle can start, the hold goes on. -/
def moveWhileWaiting (m : HostMove) (s : State) : Result :=
  match m with
  | .startCycle => .next s
  | .timerTick => .next (tickTimers s)
  | .keyEvent k => deliverKey k s

/-- Put the word `w` where the next fetch reads it and let the next move start a cycle. Only a memory that holds
no two bytes at `pc` is left as it is; the fetch there faults (R21). -/
def placeWord (s : State) (w : Word) : State :=
  let t := { setStatus s .running with host := { s.host with moves := [] } }
  match writeShort t t.pc.toNat w with
  | some u => u
  | none => t

end Sys2Proof.Machine
end

