-- ==== Sys2Proof/Machine/Step.lean ====
section
/-! DEFINITION. One step: the host's next move. A faulted machine takes none (`60_exceptions.md` R147). -/

namespace Sys2Proof.Machine

open Sys2Proof

/-- One step of the machine. -/
def step (s : State) : Host.Outcome State Fault Refusal :=
  match s.status with
  | .running => moveWhileRunning (nextMove s) (dropMove s)
  | .waiting => moveWhileWaiting (nextMove s) (dropMove s)
  | .faulted f => .fault (.stopped f s)

/-- `s` with the instruction of bits `w` where the next fetch reads it, the machine running and no host move scripted
before the cycle (DESIGN CHOICE, log 15). -/
def State.withFetchWord (s : State) (nbits w : Nat) : State := placeWord s (tableWord nbits w)

end Sys2Proof.Machine
end

