-- ==== Sys2Proof/Safety.lean ====
section
/-! DEFINITION. What counts as a well-formed machine, and the words in which statements say what an instruction leaves
unchanged. -/

namespace Sys2Proof.Machine

open Sys2Proof

/-! ### The invariant of the machine -/

/-- `depth` is at most a finite `STACK_LIMIT` (`10_state.md` R16). -/
def stackWithin (s : State) : Bool :=
  match s.config.stackLimit with
  | some n => decide (s.stack.length ≤ n)
  | none => true

/-- A waiting machine's word at `pc` is an `awaitKeyPress` (`10_state.md` R19). -/
def awaitPending (s : State) : Bool :=
  match s.status, (fetch s).map decode with
  | .waiting, some (.ok (.awaitKeyPress _)) => true
  | .waiting, _ => false
  | _, _ => true

/-- Memory is canonical and lists only addresses that exist, the stack respects its limit, and a wait has its word. -/
def State.wf (s : State) : Bool :=
  Memory.wf s.mem && Memory.below s.config.memSize s.mem && stackWithin s && awaitPending s

/-! ### Frames -/

/-- Every byte of memory reads as before (and every address outside it still does not exist). -/
def SameMemory (s t : State) : Prop := ∀ a : Int, readByte t a = readByte s a

/-- Every address outside the `n` bytes from `a` reads as before. -/
def SameMemoryOutside (s t : State) (a : Int) (n : Nat) : Prop :=
  ∀ b : Int, (b < a ∨ a + n ≤ b) → readByte t b = readByte s b

/-- Every register outside `rs` holds what it held. -/
def SameRegistersBut (s t : State) (rs : List Reg) : Prop := ∀ r : Reg, r ∉ rs → getV t r = getV s r

/-- The call stack and the timers are unchanged. -/
def SameStackAndTimers (s t : State) : Prop := t.stack = s.stack ∧ t.dt = s.dt ∧ t.st = s.st

/-- Status and configuration are unchanged, no device was asked and no host move was taken. -/
def SameOutside (s t : State) : Prop :=
  t.status = s.status ∧ t.config = s.config ∧ t.requests = s.requests ∧ t.host = s.host

/-- Only the registers `rs` and `pc` may differ. -/
def OnlyRegisters (s t : State) (rs : List Reg) : Prop :=
  SameRegistersBut s t rs ∧ t.i = s.i ∧ SameStackAndTimers s t ∧ SameOutside s t ∧ SameMemory s t

/-- Only `I` and `pc` may differ. -/
def OnlyPointer (s t : State) : Prop :=
  SameRegistersBut s t [] ∧ SameStackAndTimers s t ∧ SameOutside s t ∧ SameMemory s t

/-- Only the registers `rs`, `pc`, the request log and the host's script may differ: the log grew by exactly `r`, and
the script is `h`. -/
def OnlyRequest (s t : State) (r : Request) (h : HostScript) (rs : List Reg) : Prop :=
  SameRegistersBut s t rs ∧ t.i = s.i ∧ SameStackAndTimers s t ∧ SameMemory s t ∧ t.status = s.status ∧
    t.config = s.config ∧ t.requests = s.requests ++ [r] ∧ t.host = h

/-- `pc <- (pc + n) mod 65536` (`10_state.md` R14, R15). -/
def PcPlus (s t : State) (n : Nat) : Prop := t.pc.toNat = (s.pc.toNat + n) % 65536

/-- What every fault leaves (`60_exceptions.md` R146): `status` records it; `pc`, `I`, the stack, the timers, the
configuration, the requests and the host's script are as they were. -/
def FaultLeaves (s l : State) (f : FaultKind) : Prop :=
  l.status = .faulted f ∧ l.pc = s.pc ∧ l.i = s.i ∧ SameStackAndTimers s l ∧ l.config = s.config ∧
    l.requests = s.requests ∧ l.host = s.host

end Sys2Proof.Machine

namespace Sys2Proof

open Sys2Proof.Machine

/-! ### Who writes what -/

/-- The registers an instruction may write: its destination (for `awaitKeyPress`, on the delivery of the key), and VF for
the six flag writers (`42_alu.md` R103). -/
def Instr.writes : Instr → List Reg
  | .setRegister x _ | .addToRegister x _ | .copyRegister x _ | .or x _ | .and x _ | .xor x _ | .randomByte x _
  | .getDelayTimer x | .awaitKeyPress x => [x]
  | .addRegistersWithCarry x _ | .subtractRxMinusRyWithBorrow x _ | .subtractRyMinusRxWithBorrow x _
  | .shiftRight x _ | .shiftLeft x _ => [x, vf]
  | .drawSprite _ _ _ => [vf]
  | .loadRegisters x => registersThrough x
  | .clearScreen | .returnSubroutine | .jumpToAddress _ | .callSubroutine _ | .jumpToAddressPlusR0 _
  | .skipIfRegisterIsEqualToValue _ _ | .skipIfRegisterIsNotEqualToValue _ _ | .skipIfRegistersAreEqual _ _
  | .skipIfRegistersNotEqual _ _ | .setPointer _ | .skipIfKeyPressed _ | .skipIfKeyNotPressed _
  | .setDelayTimer _ | .setSoundTimer _ | .addToPointer _ | .getCharacterIndex _ | .toDecimal _
  | .storeRegisters _ => []

/-- The classes of `10_state.md` R14. -/
inductive PcClass where
  | sequential
  | skip
  | transfer
  deriving DecidableEq, Repr

/-- The class of a kind (R14). -/
def Instr.pcClass : Instr → PcClass
  | .skipIfRegisterIsEqualToValue _ _ | .skipIfRegisterIsNotEqualToValue _ _ | .skipIfRegistersAreEqual _ _
  | .skipIfRegistersNotEqual _ _ | .skipIfKeyPressed _ | .skipIfKeyNotPressed _ => .skip
  | .jumpToAddress _ | .callSubroutine _ | .jumpToAddressPlusR0 _ | .returnSubroutine => .transfer
  | .clearScreen | .setRegister _ _ | .addToRegister _ _ | .copyRegister _ _ | .or _ _ | .and _ _ | .xor _ _
  | .addRegistersWithCarry _ _ | .subtractRxMinusRyWithBorrow _ _ | .subtractRyMinusRxWithBorrow _ _
  | .shiftRight _ _ | .shiftLeft _ _ | .setPointer _ | .randomByte _ _ | .drawSprite _ _ _ | .getDelayTimer _
  | .awaitKeyPress _ | .setDelayTimer _ | .setSoundTimer _ | .addToPointer _ | .getCharacterIndex _
  | .toDecimal _ | .storeRegisters _ | .loadRegisters _ => .sequential

/-- The kinds that read or write memory (`20_memory.md` R40). -/
def Instr.usesMemory : Instr → Bool
  | .drawSprite _ _ _ | .toDecimal _ | .storeRegisters _ | .loadRegisters _ => true
  | _ => false

/-- The kinds that write memory (R40). -/
def Instr.storesMemory : Instr → Bool
  | .toDecimal _ | .storeRegisters _ => true
  | _ => false

/-- The kinds that write `I` (`10_state.md` R12). -/
def Instr.writesPointer : Instr → Bool
  | .setPointer _ | .addToPointer _ | .getCharacterIndex _ | .storeRegisters _ | .loadRegisters _ => true
  | _ => false

/-- The kinds that touch the call stack (R16). -/
def Instr.usesStack : Instr → Bool
  | .callSubroutine _ | .returnSubroutine => true
  | _ => false

end Sys2Proof

namespace Sys2Proof.Machine

open Sys2Proof

/-- Whether an instruction at `pc` leaves the machine as it is for good (`70_reset_and_hazards.md` R165). -/
def stalls (i : Instr) (s : State) : Prop :=
  (i = .returnSubroutine ∧ s.stack = []) ∨ (∃ nnn, i = .jumpToAddress nnn ∧ zextAddress nnn = s.pc) ∨
    (∃ nnn, i = .jumpToAddressPlusR0 nnn ∧ zextAddress nnn + zextByte (getV s 0) = s.pc)

end Sys2Proof.Machine
end

