-- ==== Sys2Proof/Certificates/Slice0/Obligations.lean ====
section
/-! DEFINITION. The statements about this machine, for the provers. Each docstring names the rule of spec/ it formalises.
The reduction mod 65536 in `PcPlus` is that of R14 and of each instruction's rule (R15, D5; log 11). -/

open Sys2Proof Sys2Proof.Machine

/-! ### Reset and the invariant -/

/-- R25, R160, R161, at EVERY configuration: everything 0, the stack empty, `running`. (Reset's configuration itself is
log 2's, and no clause here says what it is.) -/
def Obligations.ResetIsAllZero : Prop :=
  ∀ c : Config,
    (∀ r, getV (State.resetWith c) r = 0) ∧ (State.resetWith c).i = 0 ∧ (State.resetWith c).pc = 0 ∧
      (State.resetWith c).stack = [] ∧ (State.resetWith c).dt = 0 ∧ (State.resetWith c).st = 0 ∧
      (∀ a : Int, 0 ≤ a → a < c.memSize → readByte (State.resetWith c) a = some 0) ∧
      (State.resetWith c).status = .running ∧ (State.resetWith c).config = c

/-- The machine is well formed at reset, at every configuration, and `State.reset` is one of these. -/
def Obligations.ResetIsWellFormed : Prop :=
  (∀ c : Config, (State.resetWith c).wf = true) ∧ ∃ c, State.reset = State.resetWith c

/-- The invariant `State.wf`: memory stays canonical and within `MEM_SIZE` (R18, R30), the stack stays within
`STACK_LIMIT` (R16), a waiting machine's `pc` points at an `awaitKeyPress` (R19, R125). -/
def Obligations.StepKeepsWellFormed : Prop :=
  ∀ s t : State, s.wf = true → step s = .next t → t.wf = true

/-- A step that completes leaves a machine that runs or waits, never a faulted one (R19, R147), and writes neither
`MEM_SIZE` nor `STACK_LIMIT` (R24). -/
def Obligations.StepNeverLeavesFaultedOrReconfigured : Prop :=
  ∀ s t : State, step s = .next t → (t.status = .running ∨ t.status = .waiting) ∧ t.config = s.config

/-- Every instruction has a meaning in every state: `exec` never refuses (R54, R152); nor is a well-formed machine ever
refused a step. -/
def Obligations.NothingIsRefused : Prop :=
  (∀ (i : Instr) (s : State) (r : Refusal), exec i s ≠ .refused r) ∧
    ∀ (s : State) (r : Refusal), s.wf = true → step s ≠ .refused r

/-! ### Encoding -/

/-- Decoding the word of an instruction gives it back, every operand at every value. -/
def Obligations.DecodeOfEncode : Prop := ∀ i : Instr, decode (encode i) = .ok i

/-- The other direction: a word that decodes is the word of what it decodes to. -/
def Obligations.EncodeOfDecode : Prop := ∀ (w : Word) (i : Instr), decode w = .ok i → encode i = w

/-- R55: a word is of a kind exactly when it matches the kind's row. -/
def Obligations.DecodeFollowsOpcodeTable : Prop :=
  ∀ (w : Word) (r : OpcodeRow), r ∈ opcodeTable →
    (w &&& r.mask = r.pattern ↔ ∃ i, decode w = .ok i ∧ i.mnemonic = r.mnemonic)

/-- R62: no word matches two rows. -/
def Obligations.OpcodeRowsAreDisjoint : Prop :=
  ∀ (w : Word) (r q : OpcodeRow), r ∈ opcodeTable → q ∈ opcodeTable → w &&& r.mask = r.pattern →
    w &&& q.mask = q.pattern → r = q

/-- R57 (with R56): the words that decode to `unknown` are exactly those of the six regions. -/
def Obligations.UnknownWordsAreTheUnlisted : Prop :=
  ∀ w : Word,
    decode w = .error (.unknown w) ↔
      (fieldOp w = 0x0 ∧ w ≠ 0x00E0 ∧ w ≠ 0x00EE) ∨ (fieldOp w = 0x5 ∧ fieldN w ≠ 0) ∨
      (fieldOp w = 0x8 ∧ (fieldN w = 0x8 ∨ fieldN w = 0x9 ∨ fieldN w = 0xA ∨ fieldN w = 0xB ∨ fieldN w = 0xC ∨
        fieldN w = 0xD ∨ fieldN w = 0xF)) ∨
      (fieldOp w = 0x9 ∧ fieldN w ≠ 0) ∨ (fieldOp w = 0xE ∧ fieldNN w ≠ 0x9E ∧ fieldNN w ≠ 0xA1) ∨
      (fieldOp w = 0xF ∧ fieldNN w ≠ 0x07 ∧ fieldNN w ≠ 0x0A ∧ fieldNN w ≠ 0x15 ∧ fieldNN w ≠ 0x18 ∧
        fieldNN w ≠ 0x1E ∧ fieldNN w ≠ 0x29 ∧ fieldNN w ≠ 0x33 ∧ fieldNN w ≠ 0x55 ∧ fieldNN w ≠ 0x65)

/-- Words written out from R55, one of every family: a sanity statement. -/
def Obligations.WrittenOutWordsDecode : Prop :=
  decode 0x00E0 = .ok .clearScreen ∧ decode 0x00EE = .ok .returnSubroutine ∧
    decode 0x1ABC = .ok (.jumpToAddress 0xABC) ∧ decode 0x332A = .ok (.skipIfRegisterIsEqualToValue 3 0x2A) ∧
    decode 0x8AB4 = .ok (.addRegistersWithCarry 10 11) ∧ decode 0xD12F = .ok (.drawSprite 1 2 15) ∧
    decode 0xE39E = .ok (.skipIfKeyPressed 3) ∧ decode 0xFA55 = .ok (.storeRegisters 10) ∧
    decode 0x01E0 = .error (.unknown 0x01E0)

/-! ### One step -/

/-- R21, R22, R50: when the bytes at `pc` and `pc + 1` are the word of an instruction and the host starts a cycle, the step
is that instruction's `exec`, on the state with the host's move taken off its script. -/
def Obligations.StepRunsDecodedInstruction : Prop :=
  ∀ (s : State) (hi lo : Byte) (i : Instr), s.status = .running → nextMove s = .startCycle →
    readByte s s.pc.toNat = some hi → readByte s (s.pc.toNat + 1) = some lo → decode (wordOfBytes hi lo) = .ok i →
    step s = exec i (dropMove s)

/-- R74: a cycle on a word of no kind changes nothing; with no move scripted the machine is as it was, word for word. -/
def Obligations.UnknownWordChangesNothing : Prop :=
  ∀ (s : State) (w : Word) (e : Reject), s.status = .running → s.host.moves = [] → fetch s = some w →
    decode w = .error e → step s = .next s

/-- R21, R141: a fetch of which either byte does not exist faults, naming `pc`, and nothing but `status` changes. -/
def Obligations.FetchOutsideMemoryFaults : Prop :=
  ∀ s : State, s.status = .running → nextMove s = .startCycle → (s.config.memSize : Int) ≤ s.pc.toNat + 1 →
    step s = .fault (.outOfBounds s.pc.toNat (faultedAt (dropMove s) .outOfBounds))

/-- R147: a faulted machine takes no further step. -/
def Obligations.FaultedMachineTakesNoStep : Prop :=
  ∀ (s : State) (f : FaultKind), s.status = .faulted f → step s = .fault (.stopped f s)

/-- R150, R153: a timer tick lowers each timer that is not 0 by one and changes nothing else, while running or
waiting. (That a timer at 0 stays 0 is from general knowledge, G6; log 9.) -/
def Obligations.TimerTickCountsDown : Prop :=
  ∀ (s : State) (rest : List HostMove), s.status = .running ∨ s.status = .waiting →
    s.host.moves = .timerTick :: rest →
    ∃ t, step s = .next t ∧ (s.dt = 0 → t.dt = 0) ∧ (s.dt ≠ 0 → t.dt.toNat = s.dt.toNat - 1) ∧
      (s.st = 0 → t.st = 0) ∧ (s.st ≠ 0 → t.st.toNat = s.st.toNat - 1) ∧ t.host = { s.host with moves := rest } ∧
      SameRegistersBut s t [] ∧ t.i = s.i ∧ t.pc = s.pc ∧ t.stack = s.stack ∧ SameMemory s t ∧
      t.status = s.status ∧ t.config = s.config ∧ t.requests = s.requests

/-- R125, R150, R19: a key event delivered to a waiting machine completes the `awaitKeyPress` at `pc`. -/
def Obligations.KeyEventCompletesWait : Prop :=
  ∀ (s : State) (k : Nibble) (rest : List HostMove) (w : Word) (x : Reg), s.status = .waiting →
    s.host.moves = .keyEvent k :: rest → fetch s = some w → decode w = .ok (.awaitKeyPress x) →
    ∃ t, step s = .next t ∧ (getV t x).toNat = k.toNat ∧ PcPlus s t 2 ∧ t.status = .running ∧
      SameRegistersBut s t [x] ∧ t.i = s.i ∧ SameStackAndTimers s t ∧ SameMemory s t ∧ t.config = s.config ∧
      t.requests = s.requests ∧ t.host = { s.host with moves := rest }

/-- R125, R150: a waiting machine without a key event, and a running machine with one, are left as they are but for the
move taken. -/
def Obligations.MovesThatChangeNothing : Prop :=
  ∀ s : State,
    (s.status = .waiting → nextMove s = .startCycle → step s = .next (dropMove s)) ∧
      (s.status = .waiting → s.host.moves = [] → step s = .next s) ∧
      (∀ k, s.status = .running → nextMove s = .keyEvent k → step s = .next (dropMove s))

/-! ### Memory accessors -/

/-- R31: an access succeeds exactly when its address is an integer from 0 to `MEM_SIZE - 1`; a negative one fails. -/
def Obligations.AccessesAreBoundsChecked : Prop :=
  ∀ (s : State) (a : Int) (b : Byte) (w : Word),
    (readByte s a = none ↔ a < 0 ∨ (s.config.memSize : Int) ≤ a) ∧
      (writeByte s a b = none ↔ a < 0 ∨ (s.config.memSize : Int) ≤ a) ∧
      (readShort s a = none ↔ a < 0 ∨ (s.config.memSize : Int) ≤ a + 1) ∧
      (writeShort s a w = none ↔ a < 0 ∨ (s.config.memSize : Int) ≤ a + 1)

/-- R33: in range, `write_byte` stores the byte at its address and changes nothing else; out of range it writes nothing. -/
def Obligations.WriteByteStoresOneCell : Prop :=
  ∀ (s : State) (a : Int) (b : Byte),
    (0 ≤ a → a < s.config.memSize →
      ∃ t, writeByte s a b = some t ∧ readByte t a = some b ∧ (∀ c, c ≠ a → readByte t c = readByte s c) ∧
        setMem t s.mem = s) ∧
      (a < 0 ∨ (s.config.memSize : Int) ≤ a → writeByte s a b = none)

/-- R34: `read_short` is big-endian and answers exactly when both addresses exist. -/
def Obligations.ReadShortIsBigEndian : Prop :=
  ∀ (s : State) (a : Int),
    (0 ≤ a → a + 1 < s.config.memSize →
      ∃ w hi lo, readShort s a = some w ∧ readByte s a = some hi ∧ readByte s (a + 1) = some lo ∧
        w.toNat = hi.toNat * 256 + lo.toNat) ∧
      (a < 0 ∨ (s.config.memSize : Int) ≤ a + 1 → readShort s a = none)

/-- R35: `write_short` writes the high byte, then the low byte, or neither. -/
def Obligations.WriteShortIsBigEndian : Prop :=
  ∀ (s : State) (a : Int) (w : Word),
    (0 ≤ a → a + 1 < s.config.memSize →
      ∃ t hi lo, writeShort s a w = some t ∧ readByte t a = some hi ∧ readByte t (a + 1) = some lo ∧
        hi.toNat = w.toNat / 256 ∧ lo.toNat = w.toNat % 256 ∧ SameMemoryOutside s t a 2 ∧ setMem t s.mem = s) ∧
      (a < 0 ∨ (s.config.memSize : Int) ≤ a + 1 → writeShort s a w = none)

/-- R18, R48 (the canonical form is the model's, `WellFormed.lean`): two canonical memories that hold the same byte at every
address are the same data. -/
def Obligations.CanonicalMemoriesAreUnique : Prop :=
  ∀ m n : Memory, Memory.wf m = true → Memory.wf n = true → (∀ a, memGet m a = memGet n a) → m = n

/-! ### Control transfer and skips -/

/-- R70: the last entry is popped into `pc` with nothing added (D25; DEDUCED, log 12); on an empty stack nothing changes
(R144, D24; DEDUCED, log 13). The word is 0x00EE. -/
def Obligations.ReturnPopsIntoPc : Prop :=
  ∀ s : State,
    decode 0x00EE = .ok .returnSubroutine ∧
    (∀ (rest : List Word) (w : Word), s.stack = rest ++ [w] →
      ∃ t, exec .returnSubroutine s = .next t ∧ t.pc = w ∧ t.stack = rest ∧ SameRegistersBut s t [] ∧ t.i = s.i ∧
        t.dt = s.dt ∧ t.st = s.st ∧ SameOutside s t ∧ SameMemory s t) ∧
      (s.stack = [] → exec .returnSubroutine s = .next s)

/-- R71, R73: `pc` becomes `NNN`, respectively `NNN + V[0]`, which never wraps; nothing else changes. The words are
1NNN and BNNN. -/
def Obligations.JumpsSetPc : Prop :=
  ∀ (s : State) (nnn : Address),
    decode (formatA 0x1 nnn) = .ok (.jumpToAddress nnn) ∧ decode (formatA 0xB nnn) = .ok (.jumpToAddressPlusR0 nnn) ∧
    (∃ t, exec (.jumpToAddress nnn) s = .next t ∧ t.pc.toNat = nnn.toNat ∧ OnlyRegisters s t []) ∧
      (∃ t, exec (.jumpToAddressPlusR0 nnn) s = .next t ∧ t.pc.toNat = nnn.toNat + (getV s 0).toNat ∧
        OnlyRegisters s t [])

/-- R72: the call pushes its OWN address (D25; DEDUCED, log 12) and jumps; with a finite limit reached it faults and
changes nothing (D2; log 6). -/
def Obligations.CallPushesItsOwnAddress : Prop :=
  ∀ (s : State) (nnn : Address),
    (s.config.stackLimit ≠ some s.stack.length →
      ∃ t, exec (.callSubroutine nnn) s = .next t ∧ t.pc.toNat = nnn.toNat ∧ t.stack = s.stack ++ [s.pc] ∧
        SameRegistersBut s t [] ∧ t.i = s.i ∧ t.dt = s.dt ∧ t.st = s.st ∧ SameOutside s t ∧ SameMemory s t) ∧
      (s.config.stackLimit = some s.stack.length →
        exec (.callSubroutine nnn) s = .fault (.stackOverflow (faultedAt s .stackOverflow)))

/-- R164 (D25; DEDUCED, log 12): a return after a call is back at the call, with the stack as before it. -/
def Obligations.ReturnLandsOnTheCall : Prop :=
  ∀ (s t : State) (nnn : Address), exec (.callSubroutine nnn) s = .next t →
    ∃ u, exec .returnSubroutine t = .next u ∧ u.pc = s.pc ∧ u.stack = s.stack ∧ OnlyRegisters s u []

/-- R80, R81: skip on a register and an immediate. -/
def Obligations.SkipsOnImmediate : Prop :=
  ∀ (s : State) (x : Reg) (nn : Byte),
    (∃ t, exec (.skipIfRegisterIsEqualToValue x nn) s = .next t ∧
      PcPlus s t (if getV s x = nn then 4 else 2) ∧ OnlyRegisters s t []) ∧
      (∃ t, exec (.skipIfRegisterIsNotEqualToValue x nn) s = .next t ∧
        PcPlus s t (if getV s x ≠ nn then 4 else 2) ∧ OnlyRegisters s t [])

/-- R82, R83: skip on two registers. -/
def Obligations.SkipsOnRegisters : Prop :=
  ∀ (s : State) (x y : Reg),
    (∃ t, exec (.skipIfRegistersAreEqual x y) s = .next t ∧
      PcPlus s t (if getV s x = getV s y then 4 else 2) ∧ OnlyRegisters s t []) ∧
      (∃ t, exec (.skipIfRegistersNotEqual x y) s = .next t ∧
        PcPlus s t (if getV s x ≠ getV s y then 4 else 2) ∧ OnlyRegisters s t [])

/-! ### Loads, arithmetic, logic, shifts -/

/-- R90, R92. -/
def Obligations.SetAndCopyRegister : Prop :=
  ∀ (s : State) (x y : Reg) (nn : Byte),
    (∃ t, exec (.setRegister x nn) s = .next t ∧ getV t x = nn ∧ PcPlus s t 2 ∧ OnlyRegisters s t [x]) ∧
      (∃ t, exec (.copyRegister x y) s = .next t ∧ getV t x = getV s y ∧ PcPlus s t 2 ∧ OnlyRegisters s t [x])

/-- R91: mod 256, and no register but the destination changes, VF included. -/
def Obligations.AddImmediateWrapsWithoutFlag : Prop :=
  ∀ (s : State) (x : Reg) (nn : Byte),
    ∃ t, exec (.addToRegister x nn) s = .next t ∧ (getV t x).toNat = ((getV s x).toNat + nn.toNat) % 256 ∧
      PcPlus s t 2 ∧ OnlyRegisters s t [x]

/-- R93, R94, R95: the bit-wise operation, VF not written. -/
def Obligations.LogicLeavesFlagAlone : Prop :=
  ∀ (s : State) (x y : Reg),
    (∃ t, exec (.or x y) s = .next t ∧ (getV t x).toNat = (getV s x).toNat ||| (getV s y).toNat ∧ PcPlus s t 2 ∧
      OnlyRegisters s t [x]) ∧
      (∃ t, exec (.and x y) s = .next t ∧ (getV t x).toNat = (getV s x).toNat &&& (getV s y).toNat ∧ PcPlus s t 2 ∧
        OnlyRegisters s t [x]) ∧
      (∃ t, exec (.xor x y) s = .next t ∧ (getV t x).toNat = (getV s x).toNat ^^^ (getV s y).toNat ∧ PcPlus s t 2 ∧
        OnlyRegisters s t [x])

/-- R96: VF ends as the carry, also when `X = 15` (R103, D3; DEDUCED, log 10); else `V[X]` is the sum mod 256; the
operands are those of before. -/
def Obligations.AddSetsCarry : Prop :=
  ∀ (s : State) (x y : Reg),
    ∃ t, exec (.addRegistersWithCarry x y) s = .next t ∧
      getV t vf = (if (getV s x).toNat + (getV s y).toNat > 255 then 1 else 0) ∧
      (x ≠ vf → (getV t x).toNat = ((getV s x).toNat + (getV s y).toNat) % 256) ∧ PcPlus s t 2 ∧
      OnlyRegisters s t [x, vf]

/-- R97, R99: VF ends as not-borrow, also when `X = 15` (R103, D3; DEDUCED, log 10); else `V[X]` is the difference mod 256. -/
def Obligations.SubtractsSetNotBorrow : Prop :=
  ∀ (s : State) (x y : Reg),
    (∃ t, exec (.subtractRxMinusRyWithBorrow x y) s = .next t ∧
      getV t vf = (if ((getV s x).toNat : Int) - (getV s y).toNat < 0 then 0 else 1) ∧
      (x ≠ vf → ((getV t x).toNat : Int) = ((getV s x).toNat - (getV s y).toNat) % 256) ∧ PcPlus s t 2 ∧
      OnlyRegisters s t [x, vf]) ∧
      (∃ t, exec (.subtractRyMinusRxWithBorrow x y) s = .next t ∧
        getV t vf = (if ((getV s y).toNat : Int) - (getV s x).toNat < 0 then 0 else 1) ∧
        (x ≠ vf → ((getV t x).toNat : Int) = ((getV s y).toNat - (getV s x).toNat) % 256) ∧ PcPlus s t 2 ∧
        OnlyRegisters s t [x, vf])

/-- R98, R103 (D3; log 10): VF receives bit 0 of `V[Y]`, then `V[X]` the shift of `V[Y]` as it is by then: of the new
VF when `Y = 15`; with `X = 15` the shifted value is what VF ends as. -/
def Obligations.ShiftRightInOrder : Prop :=
  ∀ (s : State) (x y : Reg),
    ∃ t, exec (.shiftRight x y) s = .next t ∧
      (x ≠ vf → (getV t vf).toNat = (getV s y).toNat % 2) ∧
      (getV t x).toNat = (if y = vf then 0 else (getV s y).toNat / 2) ∧ PcPlus s t 2 ∧ OnlyRegisters s t [x, vf]

/-- R100, R103 (D3; log 10): as `shiftRight`, with bit 7 and to the left. -/
def Obligations.ShiftLeftInOrder : Prop :=
  ∀ (s : State) (x y : Reg),
    ∃ t, exec (.shiftLeft x y) s = .next t ∧
      (x ≠ vf → (getV t vf).toNat = (getV s y).toNat / 128) ∧
      (getV t x).toNat = (if y = vf then 2 * ((getV s y).toNat / 128) else 2 * (getV s y).toNat % 256) ∧
      PcPlus s t 2 ∧ OnlyRegisters s t [x, vf]

/-- R101: `V[X]` is the random source's answer and `NN`, whatever the answer is (a free value: log 4); the source is
called once. -/
def Obligations.RandomByteIsMasked : Prop :=
  ∀ (s : State) (x : Reg) (nn : Byte),
    ∃ t, exec (.randomByte x nn) s = .next t ∧ getV t x = randomAnswer s &&& nn ∧ PcPlus s t 2 ∧
      OnlyRequest s t .randomByte { s.host with randomBytes := s.host.randomBytes.tail } [x]

/-! ### Data pointer and memory -/

/-- R110, R111, R112: `I` becomes `NNN`, or itself plus `V[X]` mod 65536 (D5; log 11), or 5 times the low nibble of `V[X]`;
no register changes, VF included. -/
def Obligations.PointerInstructionsSetI : Prop :=
  ∀ (s : State) (nnn : Address) (x : Reg),
    (∃ t, exec (.setPointer nnn) s = .next t ∧ t.i.toNat = nnn.toNat ∧ PcPlus s t 2 ∧ OnlyPointer s t) ∧
      (∃ t, exec (.addToPointer x) s = .next t ∧ t.i.toNat = (s.i.toNat + (getV s x).toNat) % 65536 ∧
        PcPlus s t 2 ∧ OnlyPointer s t) ∧
      (∃ t, exec (.getCharacterIndex x) s = .next t ∧ t.i.toNat = (getV s x).toNat % 16 * 5 ∧ PcPlus s t 2 ∧
        OnlyPointer s t)

/-- R113, where all three bytes exist: hundreds, tens, ones at `I`, `I + 1`, `I + 2`; nothing else changes. -/
def Obligations.DecimalDigitsAreStored : Prop :=
  ∀ (s : State) (x : Reg), s.i.toNat + 3 ≤ s.config.memSize →
    ∃ t h d o, exec (.toDecimal x) s = .next t ∧ readByte t s.i.toNat = some h ∧
      readByte t (s.i.toNat + 1) = some d ∧ readByte t (s.i.toNat + 2) = some o ∧
      h.toNat = (getV s x).toNat / 100 ∧ d.toNat = (getV s x).toNat / 10 % 10 ∧ o.toNat = (getV s x).toNat % 10 ∧
      SameMemoryOutside s t s.i.toNat 3 ∧ PcPlus s t 2 ∧ t.i = s.i ∧ SameRegistersBut s t [] ∧
      SameStackAndTimers s t ∧ SameOutside s t

/-- R113, R141, R146, where one of the three bytes does not exist: the fault names the first, the digits below it
are stored, nothing else has changed. -/
def Obligations.DecimalDigitsFault : Prop :=
  ∀ (s : State) (x : Reg), s.config.memSize < s.i.toNat + 3 →
    ∃ l, exec (.toDecimal x) s = .fault (.outOfBounds (max s.i.toNat s.config.memSize) l) ∧
      FaultLeaves s l .outOfBounds ∧ SameRegistersBut s l [] ∧ SameMemoryOutside s l s.i.toNat 3 ∧
      ∀ k : Nat, k < 3 → s.i.toNat + k < s.config.memSize →
        readByte l (s.i.toNat + k) = (decimalDigits (getV s x))[k]?

/-- R114, where all `X + 1` bytes exist. -/
def Obligations.RegistersAreStored : Prop :=
  ∀ (s : State) (x : Reg), s.i.toNat + x.val + 1 ≤ s.config.memSize →
    ∃ t, exec (.storeRegisters x) s = .next t ∧
      (∀ r : Reg, r ≤ x → readByte t (s.i.toNat + r.val) = some (getV s r)) ∧
      SameMemoryOutside s t s.i.toNat (x.val + 1) ∧ t.i.toNat = (s.i.toNat + x.val + 1) % 65536 ∧ PcPlus s t 2 ∧
      SameRegistersBut s t [] ∧ SameStackAndTimers s t ∧ SameOutside s t

/-- R114, R141, R146 (D7), where a byte does not exist: a prefix is stored; `I`, `pc` and the registers are as before. -/
def Obligations.RegisterStoreFaults : Prop :=
  ∀ (s : State) (x : Reg), s.config.memSize < s.i.toNat + x.val + 1 →
    ∃ l, exec (.storeRegisters x) s = .fault (.outOfBounds (max s.i.toNat s.config.memSize) l) ∧
      FaultLeaves s l .outOfBounds ∧ SameRegistersBut s l [] ∧ SameMemoryOutside s l s.i.toNat (x.val + 1) ∧
      ∀ r : Reg, r ≤ x → s.i.toNat + r.val < s.config.memSize →
        readByte l (s.i.toNat + r.val) = some (getV s r)

/-- R115, where all `X + 1` bytes exist. -/
def Obligations.RegistersAreLoaded : Prop :=
  ∀ (s : State) (x : Reg), s.i.toNat + x.val + 1 ≤ s.config.memSize →
    ∃ t, exec (.loadRegisters x) s = .next t ∧
      (∀ r : Reg, r ≤ x → some (getV t r) = readByte s (s.i.toNat + r.val)) ∧
      (∀ r : Reg, x < r → getV t r = getV s r) ∧ t.i.toNat = (s.i.toNat + x.val + 1) % 65536 ∧ PcPlus s t 2 ∧
      SameMemory s t ∧ SameStackAndTimers s t ∧ SameOutside s t

/-- R115, R141, R146 (D7), where a byte does not exist: a prefix is loaded; everything else is as before. -/
def Obligations.RegisterLoadFaults : Prop :=
  ∀ (s : State) (x : Reg), s.config.memSize < s.i.toNat + x.val + 1 →
    ∃ l, exec (.loadRegisters x) s = .fault (.outOfBounds (max s.i.toNat s.config.memSize) l) ∧
      FaultLeaves s l .outOfBounds ∧ SameMemory s l ∧
      (∀ r : Reg, r ≤ x → s.i.toNat + r.val < s.config.memSize →
        some (getV l r) = readByte s (s.i.toNat + r.val)) ∧
      ∀ r : Reg, (x < r ∨ s.config.memSize ≤ s.i.toNat + r.val) → getV l r = getV s r

/-- The round trip of S11: what was stored is loaded again from the same pointer, whatever the registers held in
between, and the registers beyond `X` are untouched. -/
def Obligations.StoreThenLoadRoundTrips : Prop :=
  ∀ (s t u : State) (x : Reg), exec (.storeRegisters x) s = .next t → u.mem = t.mem → u.config = t.config →
    u.i = s.i →
    ∃ w, exec (.loadRegisters x) u = .next w ∧ (∀ r : Reg, r ≤ x → getV w r = getV s r) ∧
      ∀ r : Reg, x < r → getV w r = getV u r

/-- R45, R170: a store over the next instruction's two bytes is what the very next fetch reads. -/
def Obligations.StoreIsSeenByTheNextFetch : Prop :=
  ∀ (s t : State) (x : Reg), 1 ≤ x.val → s.i.toNat = s.pc.toNat + 2 → exec (.storeRegisters x) s = .next t →
    fetch t = some (wordOfBytes (getV s 0) (getV s 1))

/-! ### Devices and timers -/

/-- R120: one `clear()` is issued, `pc` advances, nothing else changes. -/
def Obligations.ClearScreenIssuesOneClear : Prop :=
  ∀ s : State, ∃ t, exec .clearScreen s = .next t ∧ PcPlus s t 2 ∧ OnlyRequest s t .clear s.host []

/-- R121, where all `N` rows exist (none is needed for `N = 0`, D19): the display receives `V[X]`, `V[Y]` and exactly
the `N` bytes at `I`, once, and VF is its answer (a free value: log 4). -/
def Obligations.DrawSpriteSendsRows : Prop :=
  ∀ (s : State) (x y : Reg) (n : Nibble), n = 0 ∨ s.i.toNat + n.toNat ≤ s.config.memSize →
    ∃ t rows, exec (.drawSprite x y n) s = .next t ∧ rows.length = n.toNat ∧
      (∀ k : Nat, k < n.toNat → rows[k]? = readByte s (s.i.toNat + k)) ∧
      getV t vf = (if collidedAnswer s (getV s x) (getV s y) rows then 1 else 0) ∧ PcPlus s t 2 ∧
      OnlyRequest s t (.draw (getV s x) (getV s y) rows) { s.host with collided := s.host.collided.tail } [vf]

/-- R121, R141, R146, where a row does not exist: the fault names the first, and nothing has changed. -/
def Obligations.DrawSpriteFaults : Prop :=
  ∀ (s : State) (x y : Reg) (n : Nibble), n ≠ 0 → s.config.memSize < s.i.toNat + n.toNat →
    exec (.drawSprite x y n) s =
      .fault (.outOfBounds (max s.i.toNat s.config.memSize) (faultedAt s .outOfBounds))

/-- R122, R123: the keyboard is asked once about the key `V[X] & 0xF`, and its answer (a free value: log 4) decides. -/
def Obligations.SkipsOnKey : Prop :=
  ∀ (s : State) (x : Reg) (k : Nibble), k.toNat = (getV s x).toNat % 16 →
    (∃ t, exec (.skipIfKeyPressed x) s = .next t ∧ PcPlus s t (if pressedAnswer s k then 4 else 2) ∧
      OnlyRequest s t (.isPressed k) { s.host with pressed := s.host.pressed.tail } []) ∧
      (∃ t, exec (.skipIfKeyNotPressed x) s = .next t ∧ PcPlus s t (if pressedAnswer s k then 2 else 4) ∧
        OnlyRequest s t (.isPressed k) { s.host with pressed := s.host.pressed.tail } [])

/-- R124, R126, R127: the moves between `V[X]` and the timers. -/
def Obligations.TimerMoves : Prop :=
  ∀ (s : State) (x : Reg),
    (∃ t, exec (.getDelayTimer x) s = .next t ∧ getV t x = s.dt ∧ PcPlus s t 2 ∧ OnlyRegisters s t [x]) ∧
      (∃ t, exec (.setDelayTimer x) s = .next t ∧ t.dt = getV s x ∧ PcPlus s t 2 ∧ SameRegistersBut s t [] ∧
        t.i = s.i ∧ t.stack = s.stack ∧ t.st = s.st ∧ SameOutside s t ∧ SameMemory s t) ∧
      (∃ t, exec (.setSoundTimer x) s = .next t ∧ t.st = getV s x ∧ PcPlus s t 2 ∧ SameRegistersBut s t [] ∧
        t.i = s.i ∧ t.stack = s.stack ∧ t.dt = s.dt ∧ SameOutside s t ∧ SameMemory s t)

/-- R125, R150 (D10; log 7), the whole of an `awaitKeyPress` that stands at `pc`: its cycle leaves the machine waiting with
the keyboard asked once, and from there the delivery of ANY key stores it in `V[X]` zero-extended, adds 2 to `pc` and
lets the machine run; nothing else differs from before the instruction. -/
def Obligations.AwaitKeyPressCompletes : Prop :=
  ∀ (s : State) (w : Word) (x : Reg), fetch s = some w → decode w = .ok (.awaitKeyPress x) →
    ∃ t, exec (.awaitKeyPress x) s = .next t ∧ t.status = .waiting ∧ t.pc = s.pc ∧
      ∀ k : Nibble, ∃ u, deliverKey k t = .next u ∧ (getV u x).toNat = k.toNat ∧ PcPlus s u 2 ∧ u.status = .running ∧
        SameRegistersBut s u [x] ∧ u.i = s.i ∧ SameStackAndTimers s u ∧ SameMemory s u ∧ u.config = s.config ∧
        u.requests = s.requests ++ [.awaitKeyPress] ∧ u.host = s.host

/-- R125, R19, R150 (D10; log 7): whatever the host would do next, the machine waits, `pc` at the instruction, and nothing
else of the core changes. -/
def Obligations.AwaitKeyPressWaits : Prop :=
  ∀ (s : State) (x : Reg),
    ∃ t, exec (.awaitKeyPress x) s = .next t ∧ t.status = .waiting ∧ t.pc = s.pc ∧ SameRegistersBut s t [] ∧
      t.i = s.i ∧ SameStackAndTimers s t ∧ SameMemory s t ∧ t.config = s.config ∧
      t.requests = s.requests ++ [.awaitKeyPress] ∧ t.host = s.host

/-! ### Whole-machine rules, over all instructions -/

/-- R11, R103: only the destination, and VF for the six flag writers, is ever written. -/
def Obligations.OnlyNamedRegistersAreWritten : Prop :=
  ∀ (i : Instr) (s t : State), exec i s = .next t → SameRegistersBut s t i.writes

/-- R40: no instruction but `toDecimal` and `storeRegisters` writes memory. -/
def Obligations.OnlyTwoInstructionsStore : Prop :=
  ∀ (i : Instr) (s t : State), exec i s = .next t → i.storesMemory = false → SameMemory s t

/-- R12, R16, R17, R24: who may write `I`, the stack and the timers; no instruction writes the configuration. That `status`
is written by `awaitKeyPress` alone is R19 and R125, the cell being the spec's own (D8, D10). -/
def Obligations.SpecialStateHasFewWriters : Prop :=
  ∀ (i : Instr) (s t : State), exec i s = .next t →
    (i.writesPointer = false → t.i = s.i) ∧ (i.usesStack = false → t.stack = s.stack) ∧
      ((∀ x, i ≠ .setDelayTimer x) → t.dt = s.dt) ∧ ((∀ x, i ≠ .setSoundTimer x) → t.st = s.st) ∧
      ((∀ x, i ≠ .awaitKeyPress x) → t.status = s.status) ∧ t.config = s.config

/-- R14: a completed sequential instruction adds 2 to `pc` (a wait leaves it), a skip adds 2 or 4. -/
def Obligations.PcFollowsItsClass : Prop :=
  ∀ (i : Instr) (s t : State), exec i s = .next t →
    (i.pcClass = .sequential →
      PcPlus s t 2 ∨ ((∃ x, i = .awaitKeyPress x) ∧ t.status = .waiting ∧ t.pc = s.pc)) ∧
      (i.pcClass = .skip → PcPlus s t 2 ∨ PcPlus s t 4)

/-- R157: an instruction issues at most one device request, and takes back none. -/
def Obligations.AtMostOneRequestPerInstruction : Prop :=
  ∀ (i : Instr) (s t : State), exec i s = .next t → t.requests = s.requests ∨ ∃ r, t.requests = s.requests ++ [r]

/-- R140 to R142, R146, R148: the faults of instructions are the listed ones, `pc` still at the instruction. -/
def Obligations.InstructionFaultsAreTheListed : Prop :=
  ∀ (i : Instr) (s : State) (r : Fault), exec i s = .fault r →
    (∃ addr l, r = .outOfBounds addr l ∧ i.usesMemory = true ∧ inRange s addr = false ∧
      FaultLeaves s l .outOfBounds) ∨
      (∃ nnn, i = .callSubroutine nnn ∧ s.config.stackLimit = some s.stack.length ∧
        r = .stackOverflow (faultedAt s .stackOverflow))

/-- R165: a cycle that changes nothing is one of an unknown word, a return on an empty stack (R144, D24; DEDUCED,
log 13), or a jump to itself. That an empty script starts a cycle is the model's (DESIGN CHOICE, log 3). -/
def Obligations.StallsAreTheListed : Prop :=
  ∀ (s : State) (w : Word), s.status = .running → s.host.moves = [] → fetch s = some w →
    (step s = .next s ↔ (∃ e, decode w = .error e) ∨ ∃ i, decode w = .ok i ∧ stalls i s)
end

