-- ==== Sys2Proof/Laws/Decode.lean ====
section
/-! SUPPORT. The fields of an encoded word, and a word put together again from its fields (`30_encoding.md` R51, R52). -/

namespace Sys2Proof

@[simp] theorem regField_toFin (x : Reg) : (regField x).toFin = x := rfl

@[simp] theorem regField_of_toFin (b : Nibble) : regField b.toFin = b := rfl

theorem regField_toNat (x : Reg) : (regField x).toNat = x.val := rfl

/-! ### Every field and every format as a number -/

/-- Appending puts the first vector above the second. -/
theorem append_toNat {m n : Nat} (a : BitVec m) (b : BitVec n) : (a ++ b).toNat = a.toNat * 2 ^ n + b.toNat := by
  rw [BitVec.toNat_append, Nat.shiftLeft_eq, Nat.mul_comm, ← Nat.two_pow_add_eq_or_of_lt b.isLt]

theorem fieldOp_toNat (w : Word) : (fieldOp w).toNat = w.toNat / 4096 % 16 := by
  simp [fieldOp, BitVec.extractLsb'_toNat, Nat.shiftRight_eq_div_pow]

theorem fieldX_val (w : Word) : (fieldX w).val = w.toNat / 256 % 16 := by
  simp [fieldX, Nat.shiftRight_eq_div_pow]

theorem fieldY_val (w : Word) : (fieldY w).val = w.toNat / 16 % 16 := by
  simp [fieldY, Nat.shiftRight_eq_div_pow]

theorem fieldN_toNat (w : Word) : (fieldN w).toNat = w.toNat % 16 := by
  simp [fieldN, BitVec.extractLsb'_toNat]

theorem fieldNN_toNat (w : Word) : (fieldNN w).toNat = w.toNat % 256 := by
  simp [fieldNN, BitVec.extractLsb'_toNat]

theorem fieldNNN_toNat (w : Word) : (fieldNNN w).toNat = w.toNat % 4096 := by
  simp [fieldNNN, BitVec.extractLsb'_toNat]

theorem formatA_toNat (op : Nibble) (nnn : Address) : (formatA op nnn).toNat = op.toNat * 4096 + nnn.toNat :=
  append_toNat op nnn

theorem formatI_toNat (op : Nibble) (x : Reg) (nn : Byte) :
    (formatI op x nn).toNat = (op.toNat * 16 + x.val) * 256 + nn.toNat := by
  have h := append_toNat op (regField x)
  exact (append_toNat (op ++ regField x) nn).trans (by rw [h]; rfl)

theorem formatR_toNat (op : Nibble) (x y : Reg) (n : Nibble) :
    (formatR op x y n).toNat = ((op.toNat * 16 + x.val) * 16 + y.val) * 16 + n.toNat := by
  have h := append_toNat op (regField x)
  have h' := append_toNat (op ++ regField x) (regField y)
  exact (append_toNat (op ++ regField x ++ regField y) n).trans (by rw [h', h]; rfl)

/-! ### Format A -/

@[simp] theorem fieldOp_formatA (op : Nibble) (nnn : Address) : fieldOp (formatA op nnn) = op := by
  apply BitVec.eq_of_toNat_eq; rw [fieldOp_toNat, formatA_toNat]; omega

@[simp] theorem fieldNNN_formatA (op : Nibble) (nnn : Address) : fieldNNN (formatA op nnn) = nnn := by
  apply BitVec.eq_of_toNat_eq; rw [fieldNNN_toNat, formatA_toNat]; omega

theorem formatA_fields (w : Word) : formatA (fieldOp w) (fieldNNN w) = w := by
  apply BitVec.eq_of_toNat_eq; rw [formatA_toNat, fieldOp_toNat, fieldNNN_toNat]; omega

/-! ### Formats I and S -/

@[simp] theorem fieldOp_formatI (op : Nibble) (x : Reg) (nn : Byte) : fieldOp (formatI op x nn) = op := by
  apply BitVec.eq_of_toNat_eq; rw [fieldOp_toNat, formatI_toNat]; omega

@[simp] theorem fieldX_formatI (op : Nibble) (x : Reg) (nn : Byte) : fieldX (formatI op x nn) = x := by
  apply Fin.ext; rw [fieldX_val, formatI_toNat]; omega

@[simp] theorem fieldNN_formatI (op : Nibble) (x : Reg) (nn : Byte) : fieldNN (formatI op x nn) = nn := by
  apply BitVec.eq_of_toNat_eq; rw [fieldNN_toNat, formatI_toNat]; omega

theorem formatI_fields (w : Word) : formatI (fieldOp w) (fieldX w) (fieldNN w) = w := by
  apply BitVec.eq_of_toNat_eq; rw [formatI_toNat, fieldOp_toNat, fieldX_val, fieldNN_toNat]; omega

/-! ### Formats R and D -/

@[simp] theorem fieldOp_formatR (op : Nibble) (x y : Reg) (n : Nibble) : fieldOp (formatR op x y n) = op := by
  apply BitVec.eq_of_toNat_eq; rw [fieldOp_toNat, formatR_toNat]; omega

@[simp] theorem fieldX_formatR (op : Nibble) (x y : Reg) (n : Nibble) : fieldX (formatR op x y n) = x := by
  apply Fin.ext; rw [fieldX_val, formatR_toNat]; omega

@[simp] theorem fieldY_formatR (op : Nibble) (x y : Reg) (n : Nibble) : fieldY (formatR op x y n) = y := by
  apply Fin.ext; rw [fieldY_val, formatR_toNat]; omega

@[simp] theorem fieldN_formatR (op : Nibble) (x y : Reg) (n : Nibble) : fieldN (formatR op x y n) = n := by
  apply BitVec.eq_of_toNat_eq; rw [fieldN_toNat, formatR_toNat]; omega

theorem formatR_fields (w : Word) : formatR (fieldOp w) (fieldX w) (fieldY w) (fieldN w) = w := by
  apply BitVec.eq_of_toNat_eq; rw [formatR_toNat, fieldOp_toNat, fieldX_val, fieldY_val, fieldN_toNat]; omega

/-! ### Masks (R55) -/

@[simp] theorem nibble_and_ones (a : Nibble) : a &&& 15#4 = a := BitVec.and_allOnes

@[simp] theorem byte_and_ones (a : Byte) : a &&& 255#8 = a := BitVec.and_allOnes

theorem formatA_mask (op : Nibble) (nnn : Address) : formatA op nnn &&& 0xF000#16 = formatA op 0 :=
  (BitVec.and_append (x₁ := op) (y₁ := nnn) (x₂ := 0xF#4) (y₂ := 0#12)).trans (by simp; rfl)

theorem formatI_mask (op : Nibble) (x : Reg) (nn : Byte) : formatI op x nn &&& 0xF000#16 = formatI op 0 0 := by
  have h := BitVec.and_append (x₁ := op) (y₁ := regField x) (x₂ := 0xF#4) (y₂ := 0#4)
  exact (BitVec.and_append (x₁ := op ++ regField x) (y₁ := nn) (x₂ := 0xF#4 ++ 0#4) (y₂ := 0#8)).trans
    (by rw [h]; simp; rfl)

theorem formatI_maskByte (op : Nibble) (x : Reg) (nn : Byte) : formatI op x nn &&& 0xF0FF#16 = formatI op 0 nn := by
  have h := BitVec.and_append (x₁ := op) (y₁ := regField x) (x₂ := 0xF#4) (y₂ := 0#4)
  exact (BitVec.and_append (x₁ := op ++ regField x) (y₁ := nn) (x₂ := 0xF#4 ++ 0#4) (y₂ := 0xFF#8)).trans
    (by rw [h]; simp; rfl)

theorem formatR_mask (op : Nibble) (x y : Reg) (n : Nibble) : formatR op x y n &&& 0xF000#16 = formatR op 0 0 0 := by
  have h := BitVec.and_append (x₁ := op) (y₁ := regField x) (x₂ := 0xF#4) (y₂ := 0#4)
  have h' := BitVec.and_append (x₁ := op ++ regField x) (y₁ := regField y) (x₂ := 0xF#4 ++ 0#4) (y₂ := 0#4)
  exact (BitVec.and_append (x₁ := op ++ regField x ++ regField y) (y₁ := n) (x₂ := 0xF#4 ++ 0#4 ++ 0#4)
    (y₂ := 0#4)).trans (by rw [h', h]; simp; rfl)

theorem formatR_maskNibble (op : Nibble) (x y : Reg) (n : Nibble) :
    formatR op x y n &&& 0xF00F#16 = formatR op 0 0 n := by
  have h := BitVec.and_append (x₁ := op) (y₁ := regField x) (x₂ := 0xF#4) (y₂ := 0#4)
  have h' := BitVec.and_append (x₁ := op ++ regField x) (y₁ := regField y) (x₂ := 0xF#4 ++ 0#4) (y₂ := 0#4)
  exact (BitVec.and_append (x₁ := op ++ regField x ++ regField y) (y₁ := n) (x₂ := 0xF#4 ++ 0#4 ++ 0#4)
    (y₂ := 0xF#4)).trans (by rw [h', h]; simp; rfl)

/-! ### Bytes of a word (R50) -/

theorem highByte_toNat (w : Word) : (highByte w).toNat = w.toNat / 256 := by
  simp [highByte, BitVec.extractLsb'_toNat, Nat.shiftRight_eq_div_pow]; omega

theorem lowByte_toNat (w : Word) : (lowByte w).toNat = w.toNat % 256 := by
  simp [lowByte, BitVec.extractLsb'_toNat]

/-- The value of a big-endian pair (R34, R50). -/
theorem wordOfBytes_toNat (hi lo : Byte) : (wordOfBytes hi lo).toNat = hi.toNat * 256 + lo.toNat := append_toNat hi lo

@[simp] theorem wordOfBytes_bytes (w : Word) : wordOfBytes (highByte w) (lowByte w) = w := by
  apply BitVec.eq_of_toNat_eq; rw [wordOfBytes_toNat, highByte_toNat, lowByte_toNat]; omega

@[simp] theorem highByte_wordOfBytes (hi lo : Byte) : highByte (wordOfBytes hi lo) = hi := by
  apply BitVec.eq_of_toNat_eq; rw [highByte_toNat, wordOfBytes_toNat]; omega

@[simp] theorem lowByte_wordOfBytes (hi lo : Byte) : lowByte (wordOfBytes hi lo) = lo := by
  apply BitVec.eq_of_toNat_eq; rw [lowByte_toNat, wordOfBytes_toNat]; omega

end Sys2Proof
end

