-- ==== Sys2Proof/Laws/State.lean ====
section
/-! SUPPORT. One lemma per field of State and update: what each named operation does to each field. -/

namespace Sys2Proof.Machine

open Sys2Proof

/-! ### `setRegs` -/

@[simp] theorem setRegs_v (s : State) (u : Vector Byte 16) : (setRegs s u).v = u := rfl
@[simp] theorem setRegs_i (s : State) (u : Vector Byte 16) : (setRegs s u).i = s.i := rfl
@[simp] theorem setRegs_pc (s : State) (u : Vector Byte 16) : (setRegs s u).pc = s.pc := rfl
@[simp] theorem setRegs_stack (s : State) (u : Vector Byte 16) : (setRegs s u).stack = s.stack := rfl
@[simp] theorem setRegs_dt (s : State) (u : Vector Byte 16) : (setRegs s u).dt = s.dt := rfl
@[simp] theorem setRegs_st (s : State) (u : Vector Byte 16) : (setRegs s u).st = s.st := rfl
@[simp] theorem setRegs_mem (s : State) (u : Vector Byte 16) : (setRegs s u).mem = s.mem := rfl
@[simp] theorem setRegs_status (s : State) (u : Vector Byte 16) : (setRegs s u).status = s.status := rfl
@[simp] theorem setRegs_config (s : State) (u : Vector Byte 16) : (setRegs s u).config = s.config := rfl
@[simp] theorem setRegs_requests (s : State) (u : Vector Byte 16) : (setRegs s u).requests = s.requests := rfl
@[simp] theorem setRegs_host (s : State) (u : Vector Byte 16) : (setRegs s u).host = s.host := rfl

/-! ### `setMem` -/

@[simp] theorem setMem_v (s : State) (m : Memory) : (setMem s m).v = s.v := rfl
@[simp] theorem setMem_i (s : State) (m : Memory) : (setMem s m).i = s.i := rfl
@[simp] theorem setMem_pc (s : State) (m : Memory) : (setMem s m).pc = s.pc := rfl
@[simp] theorem setMem_stack (s : State) (m : Memory) : (setMem s m).stack = s.stack := rfl
@[simp] theorem setMem_dt (s : State) (m : Memory) : (setMem s m).dt = s.dt := rfl
@[simp] theorem setMem_st (s : State) (m : Memory) : (setMem s m).st = s.st := rfl
@[simp] theorem setMem_mem (s : State) (m : Memory) : (setMem s m).mem = m := rfl
@[simp] theorem setMem_status (s : State) (m : Memory) : (setMem s m).status = s.status := rfl
@[simp] theorem setMem_config (s : State) (m : Memory) : (setMem s m).config = s.config := rfl
@[simp] theorem setMem_requests (s : State) (m : Memory) : (setMem s m).requests = s.requests := rfl
@[simp] theorem setMem_host (s : State) (m : Memory) : (setMem s m).host = s.host := rfl

/-! ### `setV` -/

@[simp] theorem setV_v (s : State) (r : Reg) (b : Byte) : (setV s r b).v = s.v.set r b := rfl
@[simp] theorem setV_i (s : State) (r : Reg) (b : Byte) : (setV s r b).i = s.i := rfl
@[simp] theorem setV_pc (s : State) (r : Reg) (b : Byte) : (setV s r b).pc = s.pc := rfl
@[simp] theorem setV_stack (s : State) (r : Reg) (b : Byte) : (setV s r b).stack = s.stack := rfl
@[simp] theorem setV_dt (s : State) (r : Reg) (b : Byte) : (setV s r b).dt = s.dt := rfl
@[simp] theorem setV_st (s : State) (r : Reg) (b : Byte) : (setV s r b).st = s.st := rfl
@[simp] theorem setV_mem (s : State) (r : Reg) (b : Byte) : (setV s r b).mem = s.mem := rfl
@[simp] theorem setV_status (s : State) (r : Reg) (b : Byte) : (setV s r b).status = s.status := rfl
@[simp] theorem setV_config (s : State) (r : Reg) (b : Byte) : (setV s r b).config = s.config := rfl
@[simp] theorem setV_requests (s : State) (r : Reg) (b : Byte) : (setV s r b).requests = s.requests := rfl
@[simp] theorem setV_host (s : State) (r : Reg) (b : Byte) : (setV s r b).host = s.host := rfl

/-! ### `setI` -/

@[simp] theorem setI_v (s : State) (w : Word) : (setI s w).v = s.v := rfl
@[simp] theorem setI_i (s : State) (w : Word) : (setI s w).i = w := rfl
@[simp] theorem setI_pc (s : State) (w : Word) : (setI s w).pc = s.pc := rfl
@[simp] theorem setI_stack (s : State) (w : Word) : (setI s w).stack = s.stack := rfl
@[simp] theorem setI_dt (s : State) (w : Word) : (setI s w).dt = s.dt := rfl
@[simp] theorem setI_st (s : State) (w : Word) : (setI s w).st = s.st := rfl
@[simp] theorem setI_mem (s : State) (w : Word) : (setI s w).mem = s.mem := rfl
@[simp] theorem setI_status (s : State) (w : Word) : (setI s w).status = s.status := rfl
@[simp] theorem setI_config (s : State) (w : Word) : (setI s w).config = s.config := rfl
@[simp] theorem setI_requests (s : State) (w : Word) : (setI s w).requests = s.requests := rfl
@[simp] theorem setI_host (s : State) (w : Word) : (setI s w).host = s.host := rfl

/-! ### `setPc` -/

@[simp] theorem setPc_v (s : State) (w : Word) : (setPc s w).v = s.v := rfl
@[simp] theorem setPc_i (s : State) (w : Word) : (setPc s w).i = s.i := rfl
@[simp] theorem setPc_pc (s : State) (w : Word) : (setPc s w).pc = w := rfl
@[simp] theorem setPc_stack (s : State) (w : Word) : (setPc s w).stack = s.stack := rfl
@[simp] theorem setPc_dt (s : State) (w : Word) : (setPc s w).dt = s.dt := rfl
@[simp] theorem setPc_st (s : State) (w : Word) : (setPc s w).st = s.st := rfl
@[simp] theorem setPc_mem (s : State) (w : Word) : (setPc s w).mem = s.mem := rfl
@[simp] theorem setPc_status (s : State) (w : Word) : (setPc s w).status = s.status := rfl
@[simp] theorem setPc_config (s : State) (w : Word) : (setPc s w).config = s.config := rfl
@[simp] theorem setPc_requests (s : State) (w : Word) : (setPc s w).requests = s.requests := rfl
@[simp] theorem setPc_host (s : State) (w : Word) : (setPc s w).host = s.host := rfl

/-! ### `advance` -/

@[simp] theorem advance_v (s : State) : (advance s).v = s.v := rfl
@[simp] theorem advance_i (s : State) : (advance s).i = s.i := rfl
@[simp] theorem advance_pc (s : State) : (advance s).pc = s.pc + 2 := rfl
@[simp] theorem advance_stack (s : State) : (advance s).stack = s.stack := rfl
@[simp] theorem advance_dt (s : State) : (advance s).dt = s.dt := rfl
@[simp] theorem advance_st (s : State) : (advance s).st = s.st := rfl
@[simp] theorem advance_mem (s : State) : (advance s).mem = s.mem := rfl
@[simp] theorem advance_status (s : State) : (advance s).status = s.status := rfl
@[simp] theorem advance_config (s : State) : (advance s).config = s.config := rfl
@[simp] theorem advance_requests (s : State) : (advance s).requests = s.requests := rfl
@[simp] theorem advance_host (s : State) : (advance s).host = s.host := rfl

/-! ### `skipIf` -/

@[simp] theorem skipIf_v (s : State) (c : Bool) : (skipIf s c).v = s.v := rfl
@[simp] theorem skipIf_i (s : State) (c : Bool) : (skipIf s c).i = s.i := rfl
@[simp] theorem skipIf_pc (s : State) (c : Bool) : (skipIf s c).pc = s.pc + if c then 4 else 2 := rfl
@[simp] theorem skipIf_stack (s : State) (c : Bool) : (skipIf s c).stack = s.stack := rfl
@[simp] theorem skipIf_dt (s : State) (c : Bool) : (skipIf s c).dt = s.dt := rfl
@[simp] theorem skipIf_st (s : State) (c : Bool) : (skipIf s c).st = s.st := rfl
@[simp] theorem skipIf_mem (s : State) (c : Bool) : (skipIf s c).mem = s.mem := rfl
@[simp] theorem skipIf_status (s : State) (c : Bool) : (skipIf s c).status = s.status := rfl
@[simp] theorem skipIf_config (s : State) (c : Bool) : (skipIf s c).config = s.config := rfl
@[simp] theorem skipIf_requests (s : State) (c : Bool) : (skipIf s c).requests = s.requests := rfl
@[simp] theorem skipIf_host (s : State) (c : Bool) : (skipIf s c).host = s.host := rfl

/-! ### `setFlag` -/

@[simp] theorem setFlag_v (s : State) (f : Bool) : (setFlag s f).v = s.v.set vf (flagByte f) := rfl
@[simp] theorem setFlag_i (s : State) (f : Bool) : (setFlag s f).i = s.i := rfl
@[simp] theorem setFlag_pc (s : State) (f : Bool) : (setFlag s f).pc = s.pc := rfl
@[simp] theorem setFlag_stack (s : State) (f : Bool) : (setFlag s f).stack = s.stack := rfl
@[simp] theorem setFlag_dt (s : State) (f : Bool) : (setFlag s f).dt = s.dt := rfl
@[simp] theorem setFlag_st (s : State) (f : Bool) : (setFlag s f).st = s.st := rfl
@[simp] theorem setFlag_mem (s : State) (f : Bool) : (setFlag s f).mem = s.mem := rfl
@[simp] theorem setFlag_status (s : State) (f : Bool) : (setFlag s f).status = s.status := rfl
@[simp] theorem setFlag_config (s : State) (f : Bool) : (setFlag s f).config = s.config := rfl
@[simp] theorem setFlag_requests (s : State) (f : Bool) : (setFlag s f).requests = s.requests := rfl
@[simp] theorem setFlag_host (s : State) (f : Bool) : (setFlag s f).host = s.host := rfl

/-! ### `faultedAt` -/

@[simp] theorem faultedAt_v (s : State) (f : FaultKind) : (faultedAt s f).v = s.v := rfl
@[simp] theorem faultedAt_i (s : State) (f : FaultKind) : (faultedAt s f).i = s.i := rfl
@[simp] theorem faultedAt_pc (s : State) (f : FaultKind) : (faultedAt s f).pc = s.pc := rfl
@[simp] theorem faultedAt_stack (s : State) (f : FaultKind) : (faultedAt s f).stack = s.stack := rfl
@[simp] theorem faultedAt_dt (s : State) (f : FaultKind) : (faultedAt s f).dt = s.dt := rfl
@[simp] theorem faultedAt_st (s : State) (f : FaultKind) : (faultedAt s f).st = s.st := rfl
@[simp] theorem faultedAt_mem (s : State) (f : FaultKind) : (faultedAt s f).mem = s.mem := rfl
@[simp] theorem faultedAt_status (s : State) (f : FaultKind) : (faultedAt s f).status = .faulted f := rfl
@[simp] theorem faultedAt_config (s : State) (f : FaultKind) : (faultedAt s f).config = s.config := rfl
@[simp] theorem faultedAt_requests (s : State) (f : FaultKind) : (faultedAt s f).requests = s.requests := rfl
@[simp] theorem faultedAt_host (s : State) (f : FaultKind) : (faultedAt s f).host = s.host := rfl

/-! ### `push` -/

@[simp] theorem push_v (s : State) (w : Word) : (push s w).v = s.v := rfl
@[simp] theorem push_i (s : State) (w : Word) : (push s w).i = s.i := rfl
@[simp] theorem push_pc (s : State) (w : Word) : (push s w).pc = s.pc := rfl
@[simp] theorem push_stack (s : State) (w : Word) : (push s w).stack = s.stack ++ [w] := rfl
@[simp] theorem push_dt (s : State) (w : Word) : (push s w).dt = s.dt := rfl
@[simp] theorem push_st (s : State) (w : Word) : (push s w).st = s.st := rfl
@[simp] theorem push_mem (s : State) (w : Word) : (push s w).mem = s.mem := rfl
@[simp] theorem push_status (s : State) (w : Word) : (push s w).status = s.status := rfl
@[simp] theorem push_config (s : State) (w : Word) : (push s w).config = s.config := rfl
@[simp] theorem push_requests (s : State) (w : Word) : (push s w).requests = s.requests := rfl
@[simp] theorem push_host (s : State) (w : Word) : (push s w).host = s.host := rfl

/-! ### `dropTop` -/

@[simp] theorem dropTop_v (s : State) : (dropTop s).v = s.v := rfl
@[simp] theorem dropTop_i (s : State) : (dropTop s).i = s.i := rfl
@[simp] theorem dropTop_pc (s : State) : (dropTop s).pc = s.pc := rfl
@[simp] theorem dropTop_stack (s : State) : (dropTop s).stack = s.stack.dropLast := rfl
@[simp] theorem dropTop_dt (s : State) : (dropTop s).dt = s.dt := rfl
@[simp] theorem dropTop_st (s : State) : (dropTop s).st = s.st := rfl
@[simp] theorem dropTop_mem (s : State) : (dropTop s).mem = s.mem := rfl
@[simp] theorem dropTop_status (s : State) : (dropTop s).status = s.status := rfl
@[simp] theorem dropTop_config (s : State) : (dropTop s).config = s.config := rfl
@[simp] theorem dropTop_requests (s : State) : (dropTop s).requests = s.requests := rfl
@[simp] theorem dropTop_host (s : State) : (dropTop s).host = s.host := rfl

/-! ### `setDT` -/

@[simp] theorem setDT_v (s : State) (b : Byte) : (setDT s b).v = s.v := rfl
@[simp] theorem setDT_i (s : State) (b : Byte) : (setDT s b).i = s.i := rfl
@[simp] theorem setDT_pc (s : State) (b : Byte) : (setDT s b).pc = s.pc := rfl
@[simp] theorem setDT_stack (s : State) (b : Byte) : (setDT s b).stack = s.stack := rfl
@[simp] theorem setDT_dt (s : State) (b : Byte) : (setDT s b).dt = b := rfl
@[simp] theorem setDT_st (s : State) (b : Byte) : (setDT s b).st = s.st := rfl
@[simp] theorem setDT_mem (s : State) (b : Byte) : (setDT s b).mem = s.mem := rfl
@[simp] theorem setDT_status (s : State) (b : Byte) : (setDT s b).status = s.status := rfl
@[simp] theorem setDT_config (s : State) (b : Byte) : (setDT s b).config = s.config := rfl
@[simp] theorem setDT_requests (s : State) (b : Byte) : (setDT s b).requests = s.requests := rfl
@[simp] theorem setDT_host (s : State) (b : Byte) : (setDT s b).host = s.host := rfl

/-! ### `setST` -/

@[simp] theorem setST_v (s : State) (b : Byte) : (setST s b).v = s.v := rfl
@[simp] theorem setST_i (s : State) (b : Byte) : (setST s b).i = s.i := rfl
@[simp] theorem setST_pc (s : State) (b : Byte) : (setST s b).pc = s.pc := rfl
@[simp] theorem setST_stack (s : State) (b : Byte) : (setST s b).stack = s.stack := rfl
@[simp] theorem setST_dt (s : State) (b : Byte) : (setST s b).dt = s.dt := rfl
@[simp] theorem setST_st (s : State) (b : Byte) : (setST s b).st = b := rfl
@[simp] theorem setST_mem (s : State) (b : Byte) : (setST s b).mem = s.mem := rfl
@[simp] theorem setST_status (s : State) (b : Byte) : (setST s b).status = s.status := rfl
@[simp] theorem setST_config (s : State) (b : Byte) : (setST s b).config = s.config := rfl
@[simp] theorem setST_requests (s : State) (b : Byte) : (setST s b).requests = s.requests := rfl
@[simp] theorem setST_host (s : State) (b : Byte) : (setST s b).host = s.host := rfl

/-! ### `tickTimers` -/

@[simp] theorem tickTimers_v (s : State) : (tickTimers s).v = s.v := rfl
@[simp] theorem tickTimers_i (s : State) : (tickTimers s).i = s.i := rfl
@[simp] theorem tickTimers_pc (s : State) : (tickTimers s).pc = s.pc := rfl
@[simp] theorem tickTimers_stack (s : State) : (tickTimers s).stack = s.stack := rfl
@[simp] theorem tickTimers_dt (s : State) : (tickTimers s).dt = countDown s.dt := rfl
@[simp] theorem tickTimers_st (s : State) : (tickTimers s).st = countDown s.st := rfl
@[simp] theorem tickTimers_mem (s : State) : (tickTimers s).mem = s.mem := rfl
@[simp] theorem tickTimers_status (s : State) : (tickTimers s).status = s.status := rfl
@[simp] theorem tickTimers_config (s : State) : (tickTimers s).config = s.config := rfl
@[simp] theorem tickTimers_requests (s : State) : (tickTimers s).requests = s.requests := rfl
@[simp] theorem tickTimers_host (s : State) : (tickTimers s).host = s.host := rfl

/-! ### `issue` -/

@[simp] theorem issue_v (s : State) (r : Request) : (issue s r).v = s.v := rfl
@[simp] theorem issue_i (s : State) (r : Request) : (issue s r).i = s.i := rfl
@[simp] theorem issue_pc (s : State) (r : Request) : (issue s r).pc = s.pc := rfl
@[simp] theorem issue_stack (s : State) (r : Request) : (issue s r).stack = s.stack := rfl
@[simp] theorem issue_dt (s : State) (r : Request) : (issue s r).dt = s.dt := rfl
@[simp] theorem issue_st (s : State) (r : Request) : (issue s r).st = s.st := rfl
@[simp] theorem issue_mem (s : State) (r : Request) : (issue s r).mem = s.mem := rfl
@[simp] theorem issue_status (s : State) (r : Request) : (issue s r).status = s.status := rfl
@[simp] theorem issue_config (s : State) (r : Request) : (issue s r).config = s.config := rfl
@[simp] theorem issue_requests (s : State) (r : Request) : (issue s r).requests = s.requests ++ [r] := rfl
@[simp] theorem issue_host (s : State) (r : Request) : (issue s r).host = s.host := rfl

/-! ### `askRandom` -/

@[simp] theorem askRandom_v (s : State) : (askRandom s).v = s.v := rfl
@[simp] theorem askRandom_i (s : State) : (askRandom s).i = s.i := rfl
@[simp] theorem askRandom_pc (s : State) : (askRandom s).pc = s.pc := rfl
@[simp] theorem askRandom_stack (s : State) : (askRandom s).stack = s.stack := rfl
@[simp] theorem askRandom_dt (s : State) : (askRandom s).dt = s.dt := rfl
@[simp] theorem askRandom_st (s : State) : (askRandom s).st = s.st := rfl
@[simp] theorem askRandom_mem (s : State) : (askRandom s).mem = s.mem := rfl
@[simp] theorem askRandom_status (s : State) : (askRandom s).status = s.status := rfl
@[simp] theorem askRandom_config (s : State) : (askRandom s).config = s.config := rfl
@[simp] theorem askRandom_requests (s : State) : (askRandom s).requests = s.requests ++ [.randomByte] := rfl
@[simp] theorem askRandom_host (s : State) : (askRandom s).host = { s.host with randomBytes := s.host.randomBytes.tail } := rfl

/-! ### `askPressed` -/

@[simp] theorem askPressed_v (s : State) (k : Nibble) : (askPressed s k).v = s.v := rfl
@[simp] theorem askPressed_i (s : State) (k : Nibble) : (askPressed s k).i = s.i := rfl
@[simp] theorem askPressed_pc (s : State) (k : Nibble) : (askPressed s k).pc = s.pc := rfl
@[simp] theorem askPressed_stack (s : State) (k : Nibble) : (askPressed s k).stack = s.stack := rfl
@[simp] theorem askPressed_dt (s : State) (k : Nibble) : (askPressed s k).dt = s.dt := rfl
@[simp] theorem askPressed_st (s : State) (k : Nibble) : (askPressed s k).st = s.st := rfl
@[simp] theorem askPressed_mem (s : State) (k : Nibble) : (askPressed s k).mem = s.mem := rfl
@[simp] theorem askPressed_status (s : State) (k : Nibble) : (askPressed s k).status = s.status := rfl
@[simp] theorem askPressed_config (s : State) (k : Nibble) : (askPressed s k).config = s.config := rfl
@[simp] theorem askPressed_requests (s : State) (k : Nibble) : (askPressed s k).requests = s.requests ++ [.isPressed k] := rfl
@[simp] theorem askPressed_host (s : State) (k : Nibble) : (askPressed s k).host = { s.host with pressed := s.host.pressed.tail } := rfl

/-! ### `askDraw` -/

@[simp] theorem askDraw_v (s : State) (x y : Byte) (rows : List Byte) : (askDraw s x y rows).v = s.v := rfl
@[simp] theorem askDraw_i (s : State) (x y : Byte) (rows : List Byte) : (askDraw s x y rows).i = s.i := rfl
@[simp] theorem askDraw_pc (s : State) (x y : Byte) (rows : List Byte) : (askDraw s x y rows).pc = s.pc := rfl
@[simp] theorem askDraw_stack (s : State) (x y : Byte) (rows : List Byte) : (askDraw s x y rows).stack = s.stack := rfl
@[simp] theorem askDraw_dt (s : State) (x y : Byte) (rows : List Byte) : (askDraw s x y rows).dt = s.dt := rfl
@[simp] theorem askDraw_st (s : State) (x y : Byte) (rows : List Byte) : (askDraw s x y rows).st = s.st := rfl
@[simp] theorem askDraw_mem (s : State) (x y : Byte) (rows : List Byte) : (askDraw s x y rows).mem = s.mem := rfl
@[simp] theorem askDraw_status (s : State) (x y : Byte) (rows : List Byte) : (askDraw s x y rows).status = s.status := rfl
@[simp] theorem askDraw_config (s : State) (x y : Byte) (rows : List Byte) : (askDraw s x y rows).config = s.config := rfl
@[simp] theorem askDraw_requests (s : State) (x y : Byte) (rows : List Byte) : (askDraw s x y rows).requests = s.requests ++ [.draw x y rows] := rfl
@[simp] theorem askDraw_host (s : State) (x y : Byte) (rows : List Byte) : (askDraw s x y rows).host = { s.host with collided := s.host.collided.tail } := rfl

/-! ### `setStatus` -/

@[simp] theorem setStatus_v (s : State) (x : Status) : (setStatus s x).v = s.v := rfl
@[simp] theorem setStatus_i (s : State) (x : Status) : (setStatus s x).i = s.i := rfl
@[simp] theorem setStatus_pc (s : State) (x : Status) : (setStatus s x).pc = s.pc := rfl
@[simp] theorem setStatus_stack (s : State) (x : Status) : (setStatus s x).stack = s.stack := rfl
@[simp] theorem setStatus_dt (s : State) (x : Status) : (setStatus s x).dt = s.dt := rfl
@[simp] theorem setStatus_st (s : State) (x : Status) : (setStatus s x).st = s.st := rfl
@[simp] theorem setStatus_mem (s : State) (x : Status) : (setStatus s x).mem = s.mem := rfl
@[simp] theorem setStatus_status (s : State) (x : Status) : (setStatus s x).status = x := rfl
@[simp] theorem setStatus_config (s : State) (x : Status) : (setStatus s x).config = s.config := rfl
@[simp] theorem setStatus_requests (s : State) (x : Status) : (setStatus s x).requests = s.requests := rfl
@[simp] theorem setStatus_host (s : State) (x : Status) : (setStatus s x).host = s.host := rfl

/-! ### `dropMove` -/

@[simp] theorem dropMove_v (s : State) : (dropMove s).v = s.v := rfl
@[simp] theorem dropMove_i (s : State) : (dropMove s).i = s.i := rfl
@[simp] theorem dropMove_pc (s : State) : (dropMove s).pc = s.pc := rfl
@[simp] theorem dropMove_stack (s : State) : (dropMove s).stack = s.stack := rfl
@[simp] theorem dropMove_dt (s : State) : (dropMove s).dt = s.dt := rfl
@[simp] theorem dropMove_st (s : State) : (dropMove s).st = s.st := rfl
@[simp] theorem dropMove_mem (s : State) : (dropMove s).mem = s.mem := rfl
@[simp] theorem dropMove_status (s : State) : (dropMove s).status = s.status := rfl
@[simp] theorem dropMove_config (s : State) : (dropMove s).config = s.config := rfl
@[simp] theorem dropMove_requests (s : State) : (dropMove s).requests = s.requests := rfl
@[simp] theorem dropMove_host (s : State) : (dropMove s).host = { s.host with moves := s.host.moves.tail } := rfl

/-! ### Replacing what is there, and replacing twice -/

@[simp] theorem setMem_self (s : State) : setMem s s.mem = s := rfl
@[simp] theorem setMem_setMem (s : State) (m n : Memory) : setMem (setMem s m) n = setMem s n := rfl
@[simp] theorem setRegs_self (s : State) : setRegs s s.v = s := rfl
@[simp] theorem setRegs_setV (s : State) (r : Reg) (b : Byte) (u : Vector Byte 16) :
    setRegs (setV s r b) u = setRegs s u := rfl

/-! ### Reading a register after an update -/

/-- A register read depends on the register file alone. -/
theorem getV_congr {s t : State} (h : t.v = s.v) (r : Reg) : getV t r = getV s r := by
  unfold getV; rw [h]

theorem getV_setV (s : State) (x : Reg) (b : Byte) (r : Reg) :
    getV (setV s x b) r = if x = r then b else getV s r := by
  simp only [getV, setV, setRegs, Fin.getElem_fin, Vector.getElem_set, Fin.ext_iff]

@[simp] theorem getV_setV_same (s : State) (x : Reg) (b : Byte) : getV (setV s x b) x = b := by
  simp [getV_setV]

theorem getV_setV_ne (s : State) {x r : Reg} (b : Byte) (h : x ≠ r) : getV (setV s x b) r = getV s r := by
  simp [getV_setV, h]

theorem getV_setFlag (s : State) (f : Bool) (r : Reg) :
    getV (setFlag s f) r = if vf = r then flagByte f else getV s r := getV_setV s vf _ r

@[simp] theorem getV_setMem (s : State) (m : Memory) (q : Reg) : getV (setMem s m) q = getV s q := rfl
@[simp] theorem getV_setI (s : State) (w : Word) (q : Reg) : getV (setI s w) q = getV s q := rfl
@[simp] theorem getV_setPc (s : State) (w : Word) (q : Reg) : getV (setPc s w) q = getV s q := rfl
@[simp] theorem getV_advance (s : State) (q : Reg) : getV (advance s) q = getV s q := rfl
@[simp] theorem getV_skipIf (s : State) (c : Bool) (q : Reg) : getV (skipIf s c) q = getV s q := rfl
@[simp] theorem getV_faultedAt (s : State) (f : FaultKind) (q : Reg) : getV (faultedAt s f) q = getV s q := rfl
@[simp] theorem getV_push (s : State) (w : Word) (q : Reg) : getV (push s w) q = getV s q := rfl
@[simp] theorem getV_dropTop (s : State) (q : Reg) : getV (dropTop s) q = getV s q := rfl
@[simp] theorem getV_setDT (s : State) (b : Byte) (q : Reg) : getV (setDT s b) q = getV s q := rfl
@[simp] theorem getV_setST (s : State) (b : Byte) (q : Reg) : getV (setST s b) q = getV s q := rfl
@[simp] theorem getV_tickTimers (s : State) (q : Reg) : getV (tickTimers s) q = getV s q := rfl
@[simp] theorem getV_issue (s : State) (r : Request) (q : Reg) : getV (issue s r) q = getV s q := rfl
@[simp] theorem getV_askRandom (s : State) (q : Reg) : getV (askRandom s) q = getV s q := rfl
@[simp] theorem getV_askPressed (s : State) (k : Nibble) (q : Reg) : getV (askPressed s k) q = getV s q := rfl
@[simp] theorem getV_askDraw (s : State) (x y : Byte) (rows : List Byte) (q : Reg) : getV (askDraw s x y rows) q = getV s q := rfl
@[simp] theorem getV_setStatus (s : State) (x : Status) (q : Reg) : getV (setStatus s x) q = getV s q := rfl
@[simp] theorem getV_dropMove (s : State) (q : Reg) : getV (dropMove s) q = getV s q := rfl

end Sys2Proof.Machine
end

