-- ==== Sys2Proof/Laws/Memory.lean ====
section
/-! SUPPORT. Memory: a read after a write, the canonical form, and what each accessor and each multi-byte transfer
can do (`20_memory.md` R31 to R42). -/

namespace Sys2Proof.Machine

open Sys2Proof

/-! ### The cell list -/

theorem memGet_filter_ne (m : Memory) {a c : Nat} (h : c ≠ a) :
    memGet (m.filter fun x => decide (x.1 ≠ a)) c = memGet m c := by
  induction m with
  | nil => rfl
  | cons x m ih =>
    by_cases hx : x.1 = a
    · have hxc : x.1 ≠ c := fun e => h (e.symm.trans hx)
      rw [List.filter_cons_of_neg (by simp [hx]), memGet, if_neg hxc, ih]
    · rw [List.filter_cons_of_pos (by simp [hx]), memGet, memGet, ih]

theorem memGet_filter_same (m : Memory) (a : Nat) : memGet (m.filter fun x => decide (x.1 ≠ a)) a = 0#8 := by
  induction m with
  | nil => rfl
  | cons x m ih =>
    by_cases hx : x.1 = a
    · rw [List.filter_cons_of_neg (by simp [hx]), ih]
    · rw [List.filter_cons_of_pos (by simp [hx]), memGet, if_neg hx, ih]

theorem memGet_memInsert_ne (m : Memory) {a c : Nat} (b : Byte) (h : c ≠ a) :
    memGet (memInsert m a b) c = memGet m c := by
  induction m with
  | nil => by_cases hb : b = 0#8 <;> simp [memInsert, hb, memGet, Ne.symm h]
  | cons x m ih =>
    by_cases hx : a < x.1
    · by_cases hb : b = 0#8 <;> simp [memInsert, hx, hb, memGet, Ne.symm h]
    · simp [memInsert, hx, memGet, ih]

theorem memGet_memInsert_same (m : Memory) (a : Nat) (b : Byte) (h : memGet m a = 0)
    (hm : ∀ x ∈ m, x.1 ≠ a) : memGet (memInsert m a b) a = b := by
  induction m with
  | nil => by_cases hb : b = 0#8 <;> simp [memInsert, hb, memGet]
  | cons x m ih =>
    have hxa : x.1 ≠ a := hm x (by simp)
    have hm' : memGet m a = 0 := by simpa [memGet, hxa] using h
    by_cases hx : a < x.1
    · by_cases hb : b = 0#8 <;> simp [memInsert, hx, hb, memGet, hxa, hm']
    · simpa [memInsert, hx, memGet, hxa] using ih hm' fun y hy => hm y (by simp [hy])

/-- A read after a write: the byte written at its own address, the old byte at every other. -/
theorem memGet_memSet (m : Memory) (a : Nat) (b : Byte) (c : Nat) :
    memGet (memSet m a b) c = if c = a then b else memGet m c := by
  by_cases h : c = a
  · subst h
    rw [if_pos rfl]
    exact memGet_memInsert_same _ _ _ (memGet_filter_same m c) (by simp)
  · rw [if_neg h, memSet, memGet_memInsert_ne _ _ h, memGet_filter_ne _ h]

/-! ### The canonical form -/

theorem allAbove_filter {a : Nat} {m : Memory} (p : Host.Cell → Bool) (h : Memory.allAbove a m = true) :
    Memory.allAbove a (m.filter p) = true := by
  induction m with
  | nil => rfl
  | cons x m ih =>
    simp only [Memory.allAbove, Bool.and_eq_true] at h
    by_cases hp : p x = true
    · simp [List.filter_cons_of_pos hp, Memory.allAbove, ih h.2, of_decide_eq_true h.1]
    · rw [List.filter_cons_of_neg hp]; exact ih h.2

theorem wf_filter {m : Memory} (p : Host.Cell → Bool) (h : Memory.wf m = true) : Memory.wf (m.filter p) = true := by
  induction m with
  | nil => exact h
  | cons x m ih =>
    simp only [Memory.wf, Memory.rising, Memory.noZero, Bool.and_eq_true] at h ih ⊢
    obtain ⟨⟨ha, hr⟩, hx, hz⟩ := h
    by_cases hp : p x = true
    · simp only [List.filter_cons_of_pos hp, Memory.rising, Memory.noZero, Bool.and_eq_true]
      exact ⟨⟨allAbove_filter p ha, (ih ⟨hr, hz⟩).1⟩, hx, (ih ⟨hr, hz⟩).2⟩
    · rw [List.filter_cons_of_neg hp]
      exact ih ⟨hr, hz⟩

theorem allAbove_memInsert {k a : Nat} {m : Memory} {b : Byte} (h : Memory.allAbove k m = true) (hk : k < a) :
    Memory.allAbove k (memInsert m a b) = true := by
  induction m with
  | nil => by_cases hb : b = 0#8 <;> simp [memInsert, hb, Memory.allAbove, hk]
  | cons x m ih =>
    simp only [Memory.allAbove, Bool.and_eq_true, decide_eq_true_eq] at h
    by_cases hx : a < x.1
    · by_cases hb : b = 0#8 <;> simp [memInsert, hx, hb, Memory.allAbove, h, hk]
    · simp [memInsert, hx, Memory.allAbove, h.1, ih h.2]

theorem allAbove_trans {a k : Nat} {m : Memory} (h : Memory.allAbove k m = true) (hk : a < k) :
    Memory.allAbove a m = true := by
  induction m with
  | nil => rfl
  | cons x m ih =>
    simp only [Memory.allAbove, Bool.and_eq_true, decide_eq_true_eq] at h ⊢
    exact ⟨hk.trans h.1, ih h.2⟩

theorem wf_memInsert {m : Memory} {a : Nat} {b : Byte} (h : Memory.wf m = true) (hm : ∀ x ∈ m, x.1 ≠ a) :
    Memory.wf (memInsert m a b) = true := by
  induction m with
  | nil => by_cases hb : b = 0#8 <;> simp [memInsert, hb, Memory.wf, Memory.rising, Memory.noZero, Memory.allAbove]
  | cons x m ih =>
    have hne : x.1 ≠ a := hm x (by simp)
    have hrest := ih (by
      simp only [Memory.wf, Memory.rising, Memory.noZero, Bool.and_eq_true] at h ⊢
      exact ⟨h.1.2, h.2.2⟩) fun y hy => hm y (by simp [hy])
    simp only [Memory.wf, Memory.rising, Memory.noZero, Bool.and_eq_true, decide_eq_true_eq] at h hrest ⊢
    obtain ⟨⟨ha, hr⟩, hx, hz⟩ := h
    by_cases hlt : a < x.1
    · by_cases hb : b = 0#8
      · simp only [memInsert, hlt, hb, if_true, Memory.rising, Memory.noZero, Bool.and_eq_true, decide_eq_true_eq]
        exact ⟨⟨ha, hr⟩, hx, hz⟩
      · rw [memInsert, if_pos hlt, if_neg hb]
        simp only [Memory.rising, Memory.noZero, Memory.allAbove, Bool.and_eq_true, decide_eq_true_eq]
        exact ⟨⟨⟨hlt, allAbove_trans ha hlt⟩, ha, hr⟩, hb, hx, hz⟩
    · simp only [memInsert, hlt, if_false, Memory.rising, Memory.noZero, Bool.and_eq_true, decide_eq_true_eq]
      exact ⟨⟨allAbove_memInsert ha (by omega), hrest.1⟩, hx, hrest.2⟩

/-- A write keeps the canonical form. -/
theorem wf_memSet {m : Memory} (h : Memory.wf m = true) (a : Nat) (b : Byte) : Memory.wf (memSet m a b) = true :=
  wf_memInsert (wf_filter _ h) (by simp)

theorem below_filter {size : Nat} {m : Memory} (p : Host.Cell → Bool) (h : Memory.below size m = true) :
    Memory.below size (m.filter p) = true := by
  induction m with
  | nil => rfl
  | cons x m ih =>
    simp only [Memory.below, Bool.and_eq_true] at h
    by_cases hp : p x = true
    · simp [List.filter_cons_of_pos hp, Memory.below, ih h.2, of_decide_eq_true h.1]
    · rw [List.filter_cons_of_neg hp]; exact ih h.2

/-- A write within the memory lists no address beyond it. -/
theorem below_memSet {size : Nat} {m : Memory} (h : Memory.below size m = true) {a : Nat} (ha : a < size) (b : Byte) :
    Memory.below size (memSet m a b) = true := by
  have hf := below_filter (fun c => decide (c.1 ≠ a)) h
  unfold memSet
  generalize (m.filter fun c => decide (c.1 ≠ a)) = l at hf
  induction l with
  | nil => by_cases hb : b = 0#8 <;> simp [memInsert, hb, Memory.below, ha]
  | cons x l ih =>
    simp only [Memory.below, Bool.and_eq_true, decide_eq_true_eq] at hf
    by_cases hx : a < x.1
    · by_cases hb : b = 0#8 <;> simp [memInsert, hx, hb, Memory.below, hf, ha]
    · simp [memInsert, hx, Memory.below, hf.1, ih hf.2]

/-! ### The accessors -/

theorem inRange_iff (s : State) (a : Int) : inRange s a = true ↔ 0 ≤ a ∧ a < s.config.memSize := by
  simp [inRange]

theorem inRange_congr {s t : State} (h : t.config = s.config) (a : Int) : inRange t a = inRange s a := by
  simp [inRange, h]

/-- A read depends on memory and its size alone. -/
theorem readByte_congr {s t : State} (hm : t.mem = s.mem) (hc : t.config = s.config) (a : Int) :
    readByte t a = readByte s a := by
  simp [readByte, inRange, hm, hc]

theorem readByte_eq_none (s : State) (a : Int) : readByte s a = none ↔ ¬ (0 ≤ a ∧ a < s.config.memSize) := by
  simp [readByte, inRange]

theorem readByte_of_inRange {s : State} {a : Int} (h : 0 ≤ a ∧ a < s.config.memSize) :
    readByte s a = some (memGet s.mem a.toNat) := by
  simp [readByte, inRange, h.1, h.2]

theorem writeByte_of_inRange {s : State} {a : Int} (h : 0 ≤ a ∧ a < s.config.memSize) (b : Byte) :
    writeByte s a b = some (setMem s (memSet s.mem a.toNat b)) := by
  simp [writeByte, inRange, h.1, h.2]

theorem writeByte_eq_none (s : State) (a : Int) (b : Byte) :
    writeByte s a b = none ↔ ¬ (0 ≤ a ∧ a < s.config.memSize) := by
  simp [writeByte, inRange]

/-- What a write does when it succeeds. -/
theorem writeByte_some {s t : State} {a : Int} {b : Byte} (h : writeByte s a b = some t) :
    (0 ≤ a ∧ a < s.config.memSize) ∧ t = (setMem s (memSet s.mem a.toNat b)) := by
  by_cases hr : 0 ≤ a ∧ a < s.config.memSize
  · rw [writeByte_of_inRange hr] at h
    exact ⟨hr, (Option.some.inj h).symm⟩
  · rw [(writeByte_eq_none s a b).2 hr] at h
    cases h

/-- Reading after a store of one byte. -/
theorem readByte_store {s : State} {a : Int} (h : 0 ≤ a ∧ a < s.config.memSize) (b : Byte) (c : Int) :
    readByte (setMem s (memSet s.mem a.toNat b)) c = if c = a then some b else readByte s c := by
  by_cases hc : 0 ≤ c ∧ c < s.config.memSize
  · rw [readByte_of_inRange (s := (setMem s (memSet s.mem a.toNat b))) hc, readByte_of_inRange hc, setMem_mem, memGet_memSet]
    by_cases e : c = a
    · simp [e]
    · rw [if_neg e, if_neg (by omega)]
  · rw [(readByte_eq_none (setMem s (memSet s.mem a.toNat b)) c).2 hc, (readByte_eq_none s c).2 hc, if_neg]
    rintro rfl
    exact hc h

/-- What the successful 16-bit read answers (R34). -/
theorem readShort_some {s : State} {a : Int} {w : Word} (h : readShort s a = some w) :
    ∃ hi lo, readByte s a = some hi ∧ readByte s (a + 1) = some lo ∧ w = wordOfBytes hi lo := by
  unfold readShort at h
  split at h
  · exact ⟨_, _, ‹_›, ‹_›, (Option.some.inj h).symm⟩
  · cases h

theorem readShort_congr {s t : State} (hm : t.mem = s.mem) (hc : t.config = s.config) (a : Int) :
    readShort t a = readShort s a := by
  simp [readShort, readByte_congr hm hc]

theorem readShort_eq_none (s : State) (a : Int) :
    readShort s a = none ↔ ¬ (0 ≤ a ∧ a + 1 < s.config.memSize) := by
  by_cases h0 : 0 ≤ a ∧ a < s.config.memSize
  · by_cases h1 : 0 ≤ a + 1 ∧ a + 1 < s.config.memSize
    · simp [readShort, readByte_of_inRange h0, readByte_of_inRange h1]; omega
    · simp [readShort, readByte_of_inRange h0, (readByte_eq_none s (a + 1)).2 h1]; omega
  · simp [readShort, (readByte_eq_none s a).2 h0]; omega

theorem fetch_congr {s t : State} (hm : t.mem = s.mem) (hc : t.config = s.config) (hp : t.pc = s.pc) :
    fetch t = fetch s := by
  simp [fetch, hp, readShort_congr hm hc]

/-! ### Multi-byte transfers -/

/-- Everything `storeBytes` can do: it answers a state that differs in memory alone, or it faults at the first address
that does not exist, with the bytes below it stored. -/
theorem storeBytes_cases (bs : List Byte) (a : Int) (s : State) :
    ∃ m, (Memory.wf s.mem = true → Memory.wf m = true) ∧
      (Memory.below s.config.memSize s.mem = true → Memory.below s.config.memSize m = true) ∧
      (storeBytes bs a s = .next (setMem s m) ∨
        ∃ k < bs.length, inRange s (a + k) = false ∧
          storeBytes bs a s = raiseOutOfBounds (a + k) (setMem s m)) := by
  induction bs generalizing a s with
  | nil => exact ⟨s.mem, id, id, .inl rfl⟩
  | cons b bs ih =>
    by_cases h : 0 ≤ a ∧ a < s.config.memSize
    · obtain ⟨m, hw, hb, hcase⟩ := ih (a + 1) (setMem s (memSet s.mem a.toNat b))
      refine ⟨m, fun h' => hw (wf_memSet h' _ _), fun h' => hb (below_memSet h' (by omega) _), ?_⟩
      simp only [storeBytes, writeByte_of_inRange h]
      obtain hc | ⟨k, hk, hr, hc⟩ := hcase
      · exact .inl hc
      · refine .inr ⟨k + 1, by simpa using hk, ?_, ?_⟩
        · simpa [inRange, Int.add_assoc, Int.add_comm 1] using hr
        · rw [hc]; simp [Int.add_assoc, Int.add_comm 1]
    · refine ⟨s.mem, id, id, .inr ⟨0, by simp, ?_, ?_⟩⟩
      · simpa [inRange] using h
      · simp [storeBytes, (writeByte_eq_none s a b).2 h]

/-- Storing within memory succeeds: each byte stands at its address, every other address reads as before. -/
theorem storeBytes_next (bs : List Byte) (a : Int) (s : State) (h0 : 0 ≤ a)
    (h : bs = [] ∨ a + bs.length ≤ s.config.memSize) :
    ∃ m, storeBytes bs a s = .next (setMem s m) ∧
      ∀ c : Int, readByte (setMem s m) c =
        if a ≤ c ∧ c < a + bs.length then bs[(c - a).toNat]? else readByte s c := by
  induction bs generalizing a s with
  | nil =>
    refine ⟨s.mem, rfl, fun c => ?_⟩
    rw [if_neg (by simp), setMem_self]
  | cons b bs ih =>
    have hlen : a + (bs.length + 1 : Nat) ≤ s.config.memSize := by simpa using h
    have ha : 0 ≤ a ∧ a < s.config.memSize := by omega
    obtain ⟨m, hs, hr⟩ := ih (a + 1) (setMem s (memSet s.mem a.toNat b)) (by omega)
      (.inr (by simp only [setMem_config]; omega))
    refine ⟨m, by simp only [storeBytes, writeByte_of_inRange ha]; exact hs, fun c => ?_⟩
    have hrc := hr c
    rw [setMem_setMem, readByte_store ha] at hrc
    rw [hrc]
    by_cases hc : a + 1 ≤ c ∧ c < a + 1 + bs.length
    · rw [if_pos hc, if_pos (by simp only [List.length_cons]; omega)]
      have : (c - a).toNat = (c - (a + 1)).toNat + 1 := by omega
      rw [this, List.getElem?_cons_succ]
    · rw [if_neg hc]
      by_cases he : c = a
      · subst he
        rw [if_pos rfl, if_pos (by simp only [List.length_cons]; omega)]
        simp
      · rw [if_neg he, if_neg (by simp only [List.length_cons]; omega)]

/-- Storing past the end faults at the first address that does not exist, the bytes below it stored. -/
theorem storeBytes_fault (bs : List Byte) (a : Int) (s : State) (h0 : 0 ≤ a)
    (h : (s.config.memSize : Int) < a + bs.length) (hne : bs ≠ []) :
    ∃ m, storeBytes bs a s = raiseOutOfBounds (max a s.config.memSize) (setMem s m) ∧
      ∀ c : Int, readByte (setMem s m) c =
        if a ≤ c ∧ c < s.config.memSize then bs[(c - a).toNat]? else readByte s c := by
  induction bs generalizing a s with
  | nil => exact absurd rfl hne
  | cons b bs ih =>
    by_cases ha : 0 ≤ a ∧ a < s.config.memSize
    · have hlen : (s.config.memSize : Int) < a + (bs.length + 1 : Nat) := by simpa using h
      have hb : bs ≠ [] := by rintro rfl; simp at hlen; omega
      obtain ⟨m, hs, hr⟩ := ih (a + 1) (setMem s (memSet s.mem a.toNat b)) (by omega)
        (by simp only [setMem_config]; omega) hb
      refine ⟨m, ?_, fun c => ?_⟩
      · simp only [storeBytes, writeByte_of_inRange ha, hs, setMem_config]
        rw [show max (a + 1) (s.config.memSize : Int) = max a s.config.memSize by omega]; rfl
      · have hrc := hr c
        rw [setMem_setMem, setMem_config, readByte_store ha] at hrc
        rw [hrc]
        by_cases hc : a + 1 ≤ c ∧ c < s.config.memSize
        · rw [if_pos hc, if_pos (by omega)]
          have : (c - a).toNat = (c - (a + 1)).toNat + 1 := by omega
          rw [this, List.getElem?_cons_succ]
        · rw [if_neg hc]
          by_cases he : c = a
          · subst he
            rw [if_pos rfl, if_pos (by omega)]
            simp
          · rw [if_neg he, if_neg (by omega)]
    · refine ⟨s.mem, ?_, fun c => ?_⟩
      · simp only [storeBytes, (writeByte_eq_none s a b).2 ha]
        rw [show max a (s.config.memSize : Int) = a by omega]; rfl
      · rw [if_neg (by omega), setMem_self]

/-- Everything `loadBytes` can do: it answers a state that differs in the registers alone, or it faults at an address that
does not exist, some registers loaded. -/
theorem loadBytes_cases (rs : List Reg) (a : Int) (s : State) :
    ∃ u, (∀ r, r ∉ rs → getV (setRegs s u) r = getV s r) ∧
      (loadBytes rs a s = .next (setRegs s u) ∨
        ∃ k < rs.length, inRange s (a + k) = false ∧
          loadBytes rs a s = raiseOutOfBounds (a + k) (setRegs s u)) := by
  induction rs generalizing a s with
  | nil => exact ⟨s.v, fun _ _ => rfl, .inl rfl⟩
  | cons r rs ih =>
    by_cases h : 0 ≤ a ∧ a < s.config.memSize
    · obtain ⟨u, hu, hcase⟩ := ih (a + 1) (setV s r (memGet s.mem a.toNat))
      refine ⟨u, fun q hq => ?_, ?_⟩
      · simp only [List.mem_cons, not_or] at hq
        exact (hu q hq.2).trans (getV_setV_ne s _ (Ne.symm hq.1))
      · simp only [loadBytes, readByte_of_inRange h]
        obtain hc | ⟨k, hk, hr, hc⟩ := hcase
        · exact .inl hc
        · refine .inr ⟨k + 1, by simpa using hk, ?_, ?_⟩
          · simpa [inRange, Int.add_assoc, Int.add_comm 1] using hr
          · rw [hc]; simp only [setV, Int.add_assoc, Int.add_comm 1]; rfl
    · refine ⟨s.v, fun _ _ => rfl, .inr ⟨0, by simp, ?_, ?_⟩⟩
      · simpa [inRange] using h
      · simp [loadBytes, (readByte_eq_none s a).2 h]

/-- Loading within memory succeeds: each register holds the byte at its place, the others what they held. -/
theorem loadBytes_next (rs : List Reg) (a : Int) (s : State) (h0 : 0 ≤ a)
    (h : rs = [] ∨ a + rs.length ≤ s.config.memSize) (hd : rs.Nodup) :
    ∃ u, loadBytes rs a s = .next (setRegs s u) ∧
      (∀ k (hk : k < rs.length), some (getV (setRegs s u) rs[k]) = readByte s (a + k)) ∧
      ∀ r, r ∉ rs → getV (setRegs s u) r = getV s r := by
  induction rs generalizing a s with
  | nil => exact ⟨s.v, rfl, fun k hk => absurd hk (by simp), fun _ _ => rfl⟩
  | cons r rs ih =>
    have hlen : a + (rs.length + 1 : Nat) ≤ s.config.memSize := by simpa using h
    have ha : 0 ≤ a ∧ a < s.config.memSize := by omega
    obtain ⟨hr, hd'⟩ := List.nodup_cons.1 hd
    obtain ⟨u, hs, hin, hout⟩ := ih (a + 1) (setV s r (memGet s.mem a.toNat)) (by omega)
      (.inr (by simp only [setV_config]; omega)) hd'
    refine ⟨u, by simp only [loadBytes, readByte_of_inRange ha]; exact hs, fun k hk => ?_, fun q hq => ?_⟩
    · cases k with
      | zero =>
        have := (hout r hr).trans (getV_setV_same s r _)
        simpa [readByte_of_inRange ha] using this
      | succ k =>
        have := hin k (by simpa using hk)
        rw [readByte_congr (s := s) (t := setV s r _) rfl rfl] at this
        simpa [Int.add_assoc, Int.add_comm 1] using this
    · simp only [List.mem_cons, not_or] at hq
      exact (hout q hq.2).trans (getV_setV_ne s _ (Ne.symm hq.1))

/-- Loading past the end faults at the first address that does not exist, the registers before it loaded. -/
theorem loadBytes_fault (rs : List Reg) (a : Int) (s : State) (h0 : 0 ≤ a)
    (h : (s.config.memSize : Int) < a + rs.length) (hne : rs ≠ []) (hd : rs.Nodup) :
    ∃ u, loadBytes rs a s = raiseOutOfBounds (max a s.config.memSize) (setRegs s u) ∧
      (∀ k (hk : k < rs.length), a + k < s.config.memSize →
        some (getV (setRegs s u) rs[k]) = readByte s (a + k)) ∧
      (∀ k (hk : k < rs.length), (s.config.memSize : Int) ≤ a + k → getV (setRegs s u) rs[k] = getV s rs[k]) ∧
      ∀ r, r ∉ rs → getV (setRegs s u) r = getV s r := by
  induction rs generalizing a s with
  | nil => exact absurd rfl hne
  | cons r rs ih =>
    obtain ⟨hr, hd'⟩ := List.nodup_cons.1 hd
    by_cases ha : 0 ≤ a ∧ a < s.config.memSize
    · have hlen : (s.config.memSize : Int) < a + (rs.length + 1 : Nat) := by simpa using h
      have hb : rs ≠ [] := by rintro rfl; simp at hlen; omega
      obtain ⟨u, hs, hin, hpast, hout⟩ := ih (a + 1) (setV s r (memGet s.mem a.toNat)) (by omega)
        (by simp only [setV_config]; omega) hb hd'
      refine ⟨u, ?_, fun k hk hka => ?_, fun k hk hka => ?_, fun q hq => ?_⟩
      · simp only [loadBytes, readByte_of_inRange ha, hs, setV_config]
        have : max (a + 1) (s.config.memSize : Int) = max a s.config.memSize := by omega
        rw [this]; rfl
      · cases k with
        | zero =>
          have := (hout r hr).trans (getV_setV_same s r _)
          simpa [readByte_of_inRange ha] using this
        | succ k =>
          have := hin k (by simpa using hk) (by simp only [setV_config]; push_cast at hka; omega)
          rw [readByte_congr (s := s) (t := setV s r _) rfl rfl] at this
          simpa [Int.add_assoc, Int.add_comm 1] using this
      · cases k with
        | zero => exact absurd hka (by push_cast; omega)
        | succ k =>
          have hk' : k < rs.length := by simpa using hk
          have := hpast k hk' (by simp only [setV_config]; push_cast at hka; omega)
          have hne' : r ≠ rs[k] := fun e => hr (e ▸ List.getElem_mem hk')
          rw [getV_setV_ne s _ hne'] at this
          simpa using this
      · simp only [List.mem_cons, not_or] at hq
        exact (hout q hq.2).trans (getV_setV_ne s _ (Ne.symm hq.1))
    · refine ⟨s.v, ?_, fun k hk hka => absurd hka (by omega), fun _ _ _ => rfl, fun _ _ => rfl⟩
      simp only [loadBytes, (readByte_eq_none s a).2 ha]
      rw [show max a (s.config.memSize : Int) = a by omega]; rfl

/-- Reading within memory gives the bytes in order. -/
theorem readBytes_ok (s : State) (n : Nat) (a : Int) (h0 : 0 ≤ a) (h : n = 0 ∨ a + n ≤ s.config.memSize) :
    ∃ bs, readBytes s n a = .ok bs ∧ bs.length = n ∧ ∀ k < n, bs[k]? = readByte s (a + k) := by
  induction n generalizing a with
  | zero => exact ⟨[], rfl, rfl, fun k hk => absurd hk (by omega)⟩
  | succ n ih =>
    have ha : 0 ≤ a ∧ a < s.config.memSize := by omega
    obtain ⟨bs, hb, hl, hk⟩ := ih (a + 1) (by omega) (.inr (by omega))
    refine ⟨memGet s.mem a.toNat :: bs, by simp only [readBytes, readByte_of_inRange ha, hb], by simp [hl], fun k hkn => ?_⟩
    cases k with
    | zero => simp [readByte_of_inRange ha]
    | succ k =>
      rw [List.getElem?_cons_succ, hk k (by omega)]
      congr 1; push_cast; omega

/-- Reading past the end names the first address that does not exist. -/
theorem readBytes_error (s : State) (n : Nat) (a : Int) (h0 : 0 ≤ a) (hn : n ≠ 0)
    (h : (s.config.memSize : Int) < a + n) : readBytes s n a = .error (max a s.config.memSize) := by
  induction n generalizing a with
  | zero => exact absurd rfl hn
  | succ n ih =>
    by_cases ha : 0 ≤ a ∧ a < s.config.memSize
    · have : n ≠ 0 := by rintro rfl; push_cast at h; omega
      simp only [readBytes, readByte_of_inRange ha, ih (a + 1) (by omega) this (by omega)]
      rw [show max (a + 1) (s.config.memSize : Int) = max a s.config.memSize by omega]
    · simp only [readBytes, (readByte_eq_none s a).2 ha]
      rw [show max a (s.config.memSize : Int) = a by omega]

/-- A failing read names an address that does not exist. -/
theorem readBytes_error_inRange (s : State) (n : Nat) (a e : Int) (h : readBytes s n a = .error e) :
    inRange s e = false := by
  induction n generalizing a with
  | zero => cases h
  | succ n ih =>
    by_cases ha : 0 ≤ a ∧ a < s.config.memSize
    · simp only [readBytes, readByte_of_inRange ha] at h
      split at h
      · cases h
      · cases h
        exact ih (a + 1) ‹_›
    · simp only [readBytes, (readByte_eq_none s a).2 ha] at h
      cases h
      simpa [inRange] using ha

end Sys2Proof.Machine
end

