-- ==== Sys2Proof/Laws/Values.lean ====
section
/-! SUPPORT. What the operand forms, the arithmetic and the flag computations are as numbers, and what the devices answer. -/

namespace Sys2Proof.Machine

open Sys2Proof

/-! ### Widening and addresses (`30_encoding.md` R58, `20_memory.md` R41) -/

@[simp] theorem zextAddress_toNat (nnn : Address) : (zextAddress nnn).toNat = nnn.toNat := by
  simp [zextAddress]; omega

@[simp] theorem zextByte_toNat (b : Byte) : (zextByte b).toNat = b.toNat := by
  simp [zextByte]; omega

theorem keyOperand_toNat (s : State) (x : Reg) : (keyOperand s x).toNat = (getV s x).toNat % 16 := by
  simp [keyOperand]

theorem pointerAddress_zero (s : State) : pointerAddress s 0 = s.i.toNat := by simp [pointerAddress]

theorem pointerPast_toNat (s : State) (x : Reg) :
    (pointerPast s x).toNat = (s.i.toNat + x.val + 1) % 65536 := by
  simp [pointerPast, BitVec.toNat_add]; omega

/-- A glyph is 5 bytes long, so the product never wraps (R112). -/
theorem glyphAddress_toNat (b : Byte) : (glyphAddress b).toNat = b.toNat % 16 * 5 := by
  revert b; decide +kernel

@[simp] theorem decimalDigits_length (b : Byte) : (decimalDigits b).length = 3 := rfl

/-! ### `V[0]` to `V[X]` (`43_pointer_memory.md` R114, R115) -/

@[simp] theorem registersThrough_length (x : Reg) : (registersThrough x).length = x.val + 1 := by revert x; decide

theorem registersThrough_nodup (x : Reg) : (registersThrough x).Nodup := by revert x; decide

theorem registersThrough_ne_nil (x : Reg) : registersThrough x ≠ [] := by revert x; decide

@[simp] theorem mem_registersThrough (x r : Reg) : r ∈ registersThrough x ↔ r ≤ x := by revert x r; decide

theorem registersThrough_getElem? (x r : Reg) (h : r ≤ x) : (registersThrough x)[r.val]? = some r := by
  revert x r; decide

theorem registersThrough_getElem (x r : Reg) (h : r ≤ x) (h' : r.val < (registersThrough x).length) :
    (registersThrough x)[r.val] = r := by
  have := registersThrough_getElem? x r h
  rw [List.getElem?_eq_getElem h'] at this
  exact Option.some.inj this

/-! ### Arithmetic, shifts, flags (`42_alu.md` R102) -/

theorem wrapSum_toNat (a b : Byte) : (wrapSum a b).toNat = (a.toNat + b.toNat) % 256 := by
  simp [wrapSum, exactSum]

theorem wrapDiff_toNat (a b : Byte) : ((wrapDiff a b).toNat : Int) = ((a.toNat : Int) - b.toNat) % 256 := by
  simp [wrapDiff, exactDiff, BitVec.toNat_ofInt]
  omega

theorem flagByte_lowBit (b : Byte) : (flagByte (lowBit b)).toNat = b.toNat % 2 := by
  revert b; decide +kernel

theorem flagByte_highBit (b : Byte) : (flagByte (highBit b)).toNat = b.toNat / 128 := by
  revert b; decide +kernel

theorem shiftedRight_toNat (b : Byte) : (shiftedRight b).toNat = b.toNat / 2 := by
  revert b; decide +kernel

theorem shiftedLeft_toNat (b : Byte) : (shiftedLeft b).toNat = 2 * b.toNat % 256 := by
  revert b; decide +kernel

/-! ### Timers -/

@[simp] theorem countDown_zero : countDown 0 = 0 := rfl

theorem countDown_toNat (b : Byte) : (countDown b).toNat = b.toNat - 1 := by
  revert b; decide +kernel

/-! ### The devices' answers (log 4) -/

theorem randomAnswer_cons {s : State} {b : Byte} {bs : List Byte} (h : s.host.randomBytes = b :: bs) :
    randomAnswer s = b := by simp [randomAnswer, h]

theorem randomAnswer_nil {s : State} (h : s.host.randomBytes = []) :
    randomAnswer s = Config.randomByte s.requests.length := by simp [randomAnswer, h]

theorem pressedAnswer_cons {s : State} {b : Bool} {bs : List Bool} (h : s.host.pressed = b :: bs) (k : Nibble) :
    pressedAnswer s k = b := by simp [pressedAnswer, h]

theorem pressedAnswer_nil {s : State} (h : s.host.pressed = []) (k : Nibble) :
    pressedAnswer s k = Config.keyPressed s.requests.length k := by simp [pressedAnswer, h]

theorem collidedAnswer_cons {s : State} {b : Bool} {bs : List Bool} (h : s.host.collided = b :: bs) (x y : Byte)
    (rows : List Byte) : collidedAnswer s x y rows = b := by simp [collidedAnswer, h]

theorem collidedAnswer_nil {s : State} (h : s.host.collided = []) (x y : Byte) (rows : List Byte) :
    collidedAnswer s x y rows = Config.drawCollided s.requests.length x y rows := by simp [collidedAnswer, h]

end Sys2Proof.Machine
end

