-- ==== Sys2Proof/Laws/Frames.lean ====
section
/-! SUPPORT. What the shared shapes of instructions leave unchanged, and where `pc` goes. -/

namespace Sys2Proof.Machine

open Sys2Proof

/-- Memory reads as before when neither the cells nor `MEM_SIZE` changed. -/
theorem sameMemory_of_eq {s t : State} (hm : t.mem = s.mem) (hc : t.config = s.config) : SameMemory s t :=
  fun a => readByte_congr hm hc a

/-- Any state whose `pc` is `s`'s plus 2. -/
theorem pcPlus_two {s t : State} (h : t.pc = s.pc + 2) : PcPlus s t 2 := by
  rw [PcPlus, h, BitVec.toNat_add]; rfl

theorem pcPlus_skipIf (s : State) (c : Bool) : PcPlus s (skipIf s c) (if c then 4 else 2) := by
  cases c <;> simp [PcPlus, BitVec.toNat_add]

/-- Neither 2 nor 4 leaves `pc` where it was. -/
theorem not_pcPlus_self (s : State) {n : Nat} (h : n = 2 ∨ n = 4) : ¬ PcPlus s s n := by
  unfold PcPlus; have := s.pc.isLt; omega

theorem sameRegistersBut_setV (s : State) (x : Reg) (b : Byte) : SameRegistersBut s (setV s x b) [x] := by
  intro r hr; simp at hr; simp [getV_setV, Ne.symm hr]

/-- The shape of the instructions that write one register. -/
theorem writeAndAdvance_frame (s : State) (x : Reg) (b : Byte) :
    PcPlus s (advance (setV s x b)) 2 ∧ OnlyRegisters s (advance (setV s x b)) [x] :=
  ⟨pcPlus_two rfl, sameRegistersBut_setV s x b, rfl, ⟨rfl, rfl, rfl⟩, ⟨rfl, rfl, rfl, rfl⟩, sameMemory_of_eq rfl rfl⟩

/-- The shape of the sums and differences: destination, then VF. -/
theorem writeThenFlag_frame (s : State) (x : Reg) (b : Byte) (f : Bool) :
    PcPlus s (advance (setFlag (setV s x b) f)) 2 ∧ OnlyRegisters s (advance (setFlag (setV s x b) f)) [x, vf] := by
  refine ⟨pcPlus_two rfl, fun r hr => ?_, rfl, ⟨rfl, rfl, rfl⟩, ⟨rfl, rfl, rfl, rfl⟩, sameMemory_of_eq rfl rfl⟩
  simp only [List.mem_cons, List.not_mem_nil, or_false, not_or] at hr
  simp [getV_setFlag, getV_setV, Ne.symm hr.1, Ne.symm hr.2]

/-- The shape of the shifts: VF, then the destination. -/
theorem flagThenWrite_frame (s : State) (x : Reg) (b : Byte) (f : Bool) :
    PcPlus s (advance (setV (setFlag s f) x b)) 2 ∧ OnlyRegisters s (advance (setV (setFlag s f) x b)) [x, vf] := by
  refine ⟨pcPlus_two rfl, fun r hr => ?_, rfl, ⟨rfl, rfl, rfl⟩, ⟨rfl, rfl, rfl, rfl⟩, sameMemory_of_eq rfl rfl⟩
  simp only [List.mem_cons, List.not_mem_nil, or_false, not_or] at hr
  simp [getV_setFlag, getV_setV, Ne.symm hr.1, Ne.symm hr.2]

/-- A fault keeps all that `FaultLeaves` names when only registers or memory changed before it. -/
theorem faultLeaves_setMem (s : State) (m : Memory) (f : FaultKind) : FaultLeaves s (faultedAt (setMem s m) f) f :=
  ⟨rfl, rfl, rfl, ⟨rfl, rfl, rfl⟩, rfl, rfl, rfl⟩

theorem faultLeaves_setRegs (s : State) (u : Vector Byte 16) (f : FaultKind) :
    FaultLeaves s (faultedAt (setRegs s u) f) f :=
  ⟨rfl, rfl, rfl, ⟨rfl, rfl, rfl⟩, rfl, rfl, rfl⟩

/-- Whether `andThen` answers a next state: both parts do. -/
theorem andThen_eq_next {o : Result} {k : State → Result} {t : State} :
    andThen o k = .next t ↔ ∃ u, o = .next u ∧ k u = .next t := by
  cases o <;> simp [andThen]

theorem andThen_raise (a : Int) (s : State) (k : State → Result) :
    andThen (raiseOutOfBounds a s) k = raiseOutOfBounds a s := rfl

/-! ### The parts of the invariant -/

/-- Memory as reset leaves it is canonical and in range, at every configuration. -/
theorem resetWith_memory (c : Config) :
    Memory.wf (State.resetWith c).mem = true ∧ Memory.below c.memSize (State.resetWith c).mem = true := ⟨rfl, rfl⟩

/-- Writing one byte keeps the canonical form. -/
theorem writeByte_wf {s t : State} {a : Int} {b : Byte} (h : writeByte s a b = some t)
    (hw : Memory.wf s.mem = true) (hb : Memory.below s.config.memSize s.mem = true) :
    Memory.wf t.mem = true ∧ Memory.below t.config.memSize t.mem = true := by
  obtain ⟨h, rfl⟩ := writeByte_some h
  exact ⟨wf_memSet hw _ _, below_memSet hb (by omega) _⟩

/-- Writing two bytes keeps the canonical form. -/
theorem writeShort_wf {s t : State} {a : Int} {w : Word} (h : writeShort s a w = some t)
    (hw : Memory.wf s.mem = true) (hb : Memory.below s.config.memSize s.mem = true) :
    Memory.wf t.mem = true ∧ Memory.below t.config.memSize t.mem = true := by
  unfold writeShort at h
  split at h
  · split at h
    · obtain ⟨hw', hb'⟩ := writeByte_wf ‹_› hw hb
      exact writeByte_wf h hw' hb'
    · cases h
  · cases h

/-- Only a waiting machine has an instruction pending. -/
theorem awaitPending_of_ne {t : State} (h : t.status ≠ .waiting) : awaitPending t = true := by
  unfold awaitPending; split <;> simp_all

end Sys2Proof.Machine
end

