-- ==== Sys2Proof/Laws/PerInstr.lean ====
section
/-! SUPPORT. Statements for all instructions, one lemma per constructor. The family `EncodingMatchesRow`: the opcode table
has a row with the kind's name, and the encoded word matches it, `w & mask = match` (`30_encoding.md` R55). -/

namespace Sys2Proof.Laws

open Sys2Proof

/-- A row of `opcodeTable` bears the instruction's name, and the encoded word matches it. -/
def EncodingMatchesRow.Statement (i : Instr) : Prop :=
  ∃ r ∈ opcodeTable, r.mnemonic = i.mnemonic ∧ encode i &&& r.mask = r.pattern

theorem EncodingMatchesRow.clearScreen : EncodingMatchesRow.Statement .clearScreen :=
  ⟨⟨"clearScreen", .E, 0x00E0, 0xFFFF⟩, by decide, rfl, rfl⟩

theorem EncodingMatchesRow.returnSubroutine : EncodingMatchesRow.Statement .returnSubroutine :=
  ⟨⟨"returnSubroutine", .E, 0x00EE, 0xFFFF⟩, by decide, rfl, rfl⟩

theorem EncodingMatchesRow.jumpToAddress (nnn : Address) : EncodingMatchesRow.Statement (.jumpToAddress nnn) :=
  ⟨⟨"jumpToAddress", .A, 0x1000, 0xF000⟩, by decide, rfl, (formatA_mask _ _).trans rfl⟩

theorem EncodingMatchesRow.callSubroutine (nnn : Address) : EncodingMatchesRow.Statement (.callSubroutine nnn) :=
  ⟨⟨"callSubroutine", .A, 0x2000, 0xF000⟩, by decide, rfl, (formatA_mask _ _).trans rfl⟩

theorem EncodingMatchesRow.skipIfRegisterIsEqualToValue (x : Reg) (nn : Byte) : EncodingMatchesRow.Statement (.skipIfRegisterIsEqualToValue x nn) :=
  ⟨⟨"skipIfRegisterIsEqualToValue", .I, 0x3000, 0xF000⟩, by decide, rfl, (formatI_mask _ _ _).trans rfl⟩

theorem EncodingMatchesRow.skipIfRegisterIsNotEqualToValue (x : Reg) (nn : Byte) : EncodingMatchesRow.Statement (.skipIfRegisterIsNotEqualToValue x nn) :=
  ⟨⟨"skipIfRegisterIsNotEqualToValue", .I, 0x4000, 0xF000⟩, by decide, rfl, (formatI_mask _ _ _).trans rfl⟩

theorem EncodingMatchesRow.skipIfRegistersAreEqual (x y : Reg) : EncodingMatchesRow.Statement (.skipIfRegistersAreEqual x y) :=
  ⟨⟨"skipIfRegistersAreEqual", .R, 0x5000, 0xF00F⟩, by decide, rfl, (formatR_maskNibble _ _ _ _).trans rfl⟩

theorem EncodingMatchesRow.setRegister (x : Reg) (nn : Byte) : EncodingMatchesRow.Statement (.setRegister x nn) :=
  ⟨⟨"setRegister", .I, 0x6000, 0xF000⟩, by decide, rfl, (formatI_mask _ _ _).trans rfl⟩

theorem EncodingMatchesRow.addToRegister (x : Reg) (nn : Byte) : EncodingMatchesRow.Statement (.addToRegister x nn) :=
  ⟨⟨"addToRegister", .I, 0x7000, 0xF000⟩, by decide, rfl, (formatI_mask _ _ _).trans rfl⟩

theorem EncodingMatchesRow.copyRegister (x y : Reg) : EncodingMatchesRow.Statement (.copyRegister x y) :=
  ⟨⟨"copyRegister", .R, 0x8000, 0xF00F⟩, by decide, rfl, (formatR_maskNibble _ _ _ _).trans rfl⟩

theorem EncodingMatchesRow.or (x y : Reg) : EncodingMatchesRow.Statement (.or x y) :=
  ⟨⟨"or", .R, 0x8001, 0xF00F⟩, by decide, rfl, (formatR_maskNibble _ _ _ _).trans rfl⟩

theorem EncodingMatchesRow.and (x y : Reg) : EncodingMatchesRow.Statement (.and x y) :=
  ⟨⟨"and", .R, 0x8002, 0xF00F⟩, by decide, rfl, (formatR_maskNibble _ _ _ _).trans rfl⟩

theorem EncodingMatchesRow.xor (x y : Reg) : EncodingMatchesRow.Statement (.xor x y) :=
  ⟨⟨"xor", .R, 0x8003, 0xF00F⟩, by decide, rfl, (formatR_maskNibble _ _ _ _).trans rfl⟩

theorem EncodingMatchesRow.addRegistersWithCarry (x y : Reg) : EncodingMatchesRow.Statement (.addRegistersWithCarry x y) :=
  ⟨⟨"addRegistersWithCarry", .R, 0x8004, 0xF00F⟩, by decide, rfl, (formatR_maskNibble _ _ _ _).trans rfl⟩

theorem EncodingMatchesRow.subtractRxMinusRyWithBorrow (x y : Reg) : EncodingMatchesRow.Statement (.subtractRxMinusRyWithBorrow x y) :=
  ⟨⟨"subtractRxMinusRyWithBorrow", .R, 0x8005, 0xF00F⟩, by decide, rfl, (formatR_maskNibble _ _ _ _).trans rfl⟩

theorem EncodingMatchesRow.shiftRight (x y : Reg) : EncodingMatchesRow.Statement (.shiftRight x y) :=
  ⟨⟨"shiftRight", .R, 0x8006, 0xF00F⟩, by decide, rfl, (formatR_maskNibble _ _ _ _).trans rfl⟩

theorem EncodingMatchesRow.subtractRyMinusRxWithBorrow (x y : Reg) : EncodingMatchesRow.Statement (.subtractRyMinusRxWithBorrow x y) :=
  ⟨⟨"subtractRyMinusRxWithBorrow", .R, 0x8007, 0xF00F⟩, by decide, rfl, (formatR_maskNibble _ _ _ _).trans rfl⟩

theorem EncodingMatchesRow.shiftLeft (x y : Reg) : EncodingMatchesRow.Statement (.shiftLeft x y) :=
  ⟨⟨"shiftLeft", .R, 0x800E, 0xF00F⟩, by decide, rfl, (formatR_maskNibble _ _ _ _).trans rfl⟩

theorem EncodingMatchesRow.skipIfRegistersNotEqual (x y : Reg) : EncodingMatchesRow.Statement (.skipIfRegistersNotEqual x y) :=
  ⟨⟨"skipIfRegistersNotEqual", .R, 0x9000, 0xF00F⟩, by decide, rfl, (formatR_maskNibble _ _ _ _).trans rfl⟩

theorem EncodingMatchesRow.setPointer (nnn : Address) : EncodingMatchesRow.Statement (.setPointer nnn) :=
  ⟨⟨"setPointer", .A, 0xA000, 0xF000⟩, by decide, rfl, (formatA_mask _ _).trans rfl⟩

theorem EncodingMatchesRow.jumpToAddressPlusR0 (nnn : Address) : EncodingMatchesRow.Statement (.jumpToAddressPlusR0 nnn) :=
  ⟨⟨"jumpToAddressPlusR0", .A, 0xB000, 0xF000⟩, by decide, rfl, (formatA_mask _ _).trans rfl⟩

theorem EncodingMatchesRow.randomByte (x : Reg) (nn : Byte) : EncodingMatchesRow.Statement (.randomByte x nn) :=
  ⟨⟨"randomByte", .I, 0xC000, 0xF000⟩, by decide, rfl, (formatI_mask _ _ _).trans rfl⟩

theorem EncodingMatchesRow.drawSprite (x y : Reg) (n : Nibble) : EncodingMatchesRow.Statement (.drawSprite x y n) :=
  ⟨⟨"drawSprite", .D, 0xD000, 0xF000⟩, by decide, rfl, (formatR_mask _ _ _ _).trans rfl⟩

theorem EncodingMatchesRow.skipIfKeyPressed (x : Reg) : EncodingMatchesRow.Statement (.skipIfKeyPressed x) :=
  ⟨⟨"skipIfKeyPressed", .S, 0xE09E, 0xF0FF⟩, by decide, rfl, (formatI_maskByte _ _ _).trans rfl⟩

theorem EncodingMatchesRow.skipIfKeyNotPressed (x : Reg) : EncodingMatchesRow.Statement (.skipIfKeyNotPressed x) :=
  ⟨⟨"skipIfKeyNotPressed", .S, 0xE0A1, 0xF0FF⟩, by decide, rfl, (formatI_maskByte _ _ _).trans rfl⟩

theorem EncodingMatchesRow.getDelayTimer (x : Reg) : EncodingMatchesRow.Statement (.getDelayTimer x) :=
  ⟨⟨"getDelayTimer", .S, 0xF007, 0xF0FF⟩, by decide, rfl, (formatI_maskByte _ _ _).trans rfl⟩

theorem EncodingMatchesRow.awaitKeyPress (x : Reg) : EncodingMatchesRow.Statement (.awaitKeyPress x) :=
  ⟨⟨"awaitKeyPress", .S, 0xF00A, 0xF0FF⟩, by decide, rfl, (formatI_maskByte _ _ _).trans rfl⟩

theorem EncodingMatchesRow.setDelayTimer (x : Reg) : EncodingMatchesRow.Statement (.setDelayTimer x) :=
  ⟨⟨"setDelayTimer", .S, 0xF015, 0xF0FF⟩, by decide, rfl, (formatI_maskByte _ _ _).trans rfl⟩

theorem EncodingMatchesRow.setSoundTimer (x : Reg) : EncodingMatchesRow.Statement (.setSoundTimer x) :=
  ⟨⟨"setSoundTimer", .S, 0xF018, 0xF0FF⟩, by decide, rfl, (formatI_maskByte _ _ _).trans rfl⟩

theorem EncodingMatchesRow.addToPointer (x : Reg) : EncodingMatchesRow.Statement (.addToPointer x) :=
  ⟨⟨"addToPointer", .S, 0xF01E, 0xF0FF⟩, by decide, rfl, (formatI_maskByte _ _ _).trans rfl⟩

theorem EncodingMatchesRow.getCharacterIndex (x : Reg) : EncodingMatchesRow.Statement (.getCharacterIndex x) :=
  ⟨⟨"getCharacterIndex", .S, 0xF029, 0xF0FF⟩, by decide, rfl, (formatI_maskByte _ _ _).trans rfl⟩

theorem EncodingMatchesRow.toDecimal (x : Reg) : EncodingMatchesRow.Statement (.toDecimal x) :=
  ⟨⟨"toDecimal", .S, 0xF033, 0xF0FF⟩, by decide, rfl, (formatI_maskByte _ _ _).trans rfl⟩

theorem EncodingMatchesRow.storeRegisters (x : Reg) : EncodingMatchesRow.Statement (.storeRegisters x) :=
  ⟨⟨"storeRegisters", .S, 0xF055, 0xF0FF⟩, by decide, rfl, (formatI_maskByte _ _ _).trans rfl⟩

theorem EncodingMatchesRow.loadRegisters (x : Reg) : EncodingMatchesRow.Statement (.loadRegisters x) :=
  ⟨⟨"loadRegisters", .S, 0xF065, 0xF0FF⟩, by decide, rfl, (formatI_maskByte _ _ _).trans rfl⟩

end Sys2Proof.Laws
end

