-- ==== Sys2Proof/Laws/Step.lean ====
section
/-! SUPPORT. One step: what it can do when it answers a next state, and what the host's script has to do with it. -/

namespace Sys2Proof.Machine

open Sys2Proof

@[simp] theorem fetch_dropMove (s : State) : fetch (dropMove s) = fetch s := fetch_congr rfl rfl rfl

@[simp] theorem fetch_tickTimers (s : State) : fetch (tickTimers s) = fetch s := fetch_congr rfl rfl rfl

/-- With nothing scripted the host starts a cycle. -/
theorem nextMove_nil {s : State} (h : s.host.moves = []) : nextMove s = .startCycle := by simp [nextMove, h]

theorem nextMove_cons {s : State} {m : HostMove} {ms : List HostMove} (h : s.host.moves = m :: ms) : nextMove s = m := by
  simp [nextMove, h]

/-- With nothing scripted there is nothing to take off. -/
theorem dropMove_of_nil {s : State} (h : s.host.moves = []) : dropMove s = s := by
  obtain ⟨_, _, _, _, _, _, _, _, _, _, ⟨_, _, _, _⟩⟩ := s
  cases h; rfl

@[simp] theorem fetch_setStatus (s : State) (x : Status) : fetch (setStatus s x) = fetch s := fetch_congr rfl rfl rfl

@[simp] theorem fetch_issue (s : State) (r : Request) : fetch (issue s r) = fetch s := fetch_congr rfl rfl rfl

/-- The delivery of a key where an `awaitKeyPress` stands at `pc`. -/
theorem deliverKey_of_fetch {s : State} {w : Word} {x : Reg} (k : Nibble) (hf : fetch s = some w)
    (hd : decode w = .ok (.awaitKeyPress x)) : deliverKey k s = takeKey x k s := by
  simp only [deliverKey, hf, Option.map_some, hd]

/-- A cycle of a running machine is `execute` of the word fetched. -/
theorem step_of_fetch {s : State} {w : Word} (hs : s.status = .running) (hm : nextMove s = .startCycle)
    (hf : fetch s = some w) : step s = execute w (dropMove s) := by
  simp only [step, hs, hm, moveWhileRunning, cycle, fetch_dropMove, hf]

/-- Everything a step that answers a next state can be: a cycle (of an instruction, or of a word of no kind), a
timer tick, a move that changes nothing, or the delivery of a key to the `awaitKeyPress` at `pc`. -/
theorem step_cases {s t : State} (h : step s = .next t) :
    (s.status = .running ∧ ∃ w, fetch s = some w ∧
      ((∃ i, decode w = .ok i ∧ exec i (dropMove s) = .next t) ∨ ((∃ e, decode w = .error e) ∧ t = dropMove s))) ∨
    ((s.status = .running ∨ s.status = .waiting) ∧ (t = tickTimers (dropMove s) ∨ t = dropMove s)) ∨
    (s.status = .waiting ∧ ∃ k x w, fetch s = some w ∧ decode w = .ok (.awaitKeyPress x) ∧
      takeKey x k (dropMove s) = .next t) := by
  unfold step at h
  split at h
  · rename_i hs
    unfold moveWhileRunning at h
    split at h
    · unfold cycle at h
      rw [fetch_dropMove] at h
      split at h
      · rename_i w hw
        refine .inl ⟨hs, w, hw, ?_⟩
        unfold execute at h
        split at h
        · exact .inl ⟨_, ‹_›, h⟩
        · cases h; exact .inr ⟨⟨_, ‹_›⟩, rfl⟩
      · cases h
    · cases h; exact .inr (.inl ⟨.inl hs, .inl rfl⟩)
    · cases h; exact .inr (.inl ⟨.inl hs, .inr rfl⟩)
  · rename_i hs
    unfold moveWhileWaiting at h
    split at h
    · cases h; exact .inr (.inl ⟨.inr hs, .inr rfl⟩)
    · cases h; exact .inr (.inl ⟨.inr hs, .inl rfl⟩)
    · rename_i k _
      unfold deliverKey at h
      split at h
      · rename_i x hx
        rw [fetch_dropMove] at hx
        cases hf : fetch s with
        | none => simp [hf] at hx
        | some w =>
          simp only [hf, Option.map_some, Option.some.injEq] at hx
          exact .inr (.inr ⟨hs, k, x, w, rfl, hx, h⟩)
      · cases h
  · cases h

end Sys2Proof.Machine
end

