-- ==== Sys2Proof/Tests/Slice0.lean ====
section
/-! SUPPORT. Tests on fixed values, each about one operation or one step; every expected value is from
`95_test_vectors.md` (its row is named) or worked out by hand from the rule named. The last part shows, for every statement
with hypotheses, values that meet all of them together. -/

namespace Sys2Proof.Tests

open Sys2Proof Sys2Proof.Machine

/-! ### Helpers -/

/-- The vectors' convention: 4096 bytes, no stack limit, the instruction at 0x200. -/
def base : State := setPc (State.resetWith { memSize := 4096, stackLimit := none }) 0x200

/-- Registers given values. -/
def withV (s : State) (l : List (Reg × Byte)) : State := l.foldl (fun s p => setV s p.1 p.2) s

/-- Bytes stored from an address. -/
def withMem (s : State) (a : Int) (bs : List Byte) : State :=
  match storeBytes bs a s with
  | .next t => t
  | _ => s

/-- A call stack given. -/
def withStack (s : State) (l : List Word) : State := { s with stack := l }

/-- Another configuration. -/
def withConfig (s : State) (size : Nat) (limit : Option Nat) : State :=
  { s with config := { memSize := size, stackLimit := limit } }

/-- The host's moves given. -/
def withMoves (s : State) (l : List HostMove) : State := { s with host := { s.host with moves := l } }

/-- The next state looked at, if there is one. -/
def seen (o : Result) (f : State → α) : Option α :=
  match o with
  | .next t => some (f t)
  | _ => none

/-- One cycle on the word `w` looked at. -/
def ran (s : State) (w : Nat) (f : State → α) : Option α := seen (step (s.withFetchWord 16 w)) f

/-- An `outOfBounds` fault looked at: the address, and the state it left. -/
def outOfBounds (o : Result) (f : State → α) : Option (Int × α) :=
  match o with
  | .fault (.outOfBounds a l) => some (a, f l)
  | _ => none

/-- Whether the outcome is a next state. -/
def isNext (o : Result) : Bool :=
  match o with
  | .next _ => true
  | _ => false

/-- Whether the outcome is a fault. -/
def isFault (o : Result) : Bool :=
  match o with
  | .fault _ => true
  | _ => false

theorem isNext_iff (o : Result) : isNext o = true ↔ ∃ t, o = .next t := by cases o <;> simp [isNext]

theorem isFault_iff (o : Result) : isFault o = true ↔ ∃ r, o = .fault r := by cases o <;> simp [isFault]

/-! ### Well-formedness: each check refuses an ill-formed term -/

theorem test_wf_accepts : Memory.wf [(3, 0x01), (7, 0xFF)] = true ∧ Memory.below 8 [(3, 0x01), (7, 0xFF)] = true := by
  decide

theorem test_wf_refuses_descending : Memory.wf [(7, 0x01), (3, 0x02)] = false := by decide

theorem test_wf_refuses_repeat : Memory.wf [(3, 0x01), (3, 0x02)] = false := by decide

theorem test_wf_refuses_far_descending : Memory.wf [(3, 0x01), (7, 0x02), (5, 0x03)] = false := by decide

theorem test_wf_refuses_zero : Memory.wf [(3, 0x00)] = false := by decide

theorem test_below_refuses_past_end : Memory.below 8 [(3, 0x01), (8, 0x02)] = false := by decide

theorem test_allAbove_refuses_equal : Memory.allAbove 3 [(3, 0x01)] = false := by decide

theorem test_state_wf_refuses_deep_stack : (withStack (withConfig base 4096 (some 1)) [1, 2]).wf = false := by decide

theorem test_state_wf_refuses_wait_elsewhere : (setStatus base .waiting).wf = false := by decide

theorem test_state_wf_refuses_cell_past_end : (setMem base [(4096, 0x01)]).wf = false := by decide

theorem test_state_wf_refuses_zero_cell : (setMem base [(5, 0x00)]).wf = false := by decide

theorem test_state_wf_accepts_wait : (setStatus (base.withFetchWord 16 0xF30A) .waiting).wf = true := by decide

/-! ### Decoding: every constructor by a word written out bit by bit from `30_encoding.md` R55 -/

theorem test_decode_exact :
    decode 0b0000000011100000 = .ok .clearScreen ∧ decode 0b0000000011101110 = .ok .returnSubroutine := ⟨rfl, rfl⟩

theorem test_decode_address :
    decode 0b0001101010111100 = .ok (.jumpToAddress 0xABC) ∧ decode 0b0010111111111110 = .ok (.callSubroutine 0xFFE) ∧
      decode 0b1010000100100011 = .ok (.setPointer 0x123) ∧
      decode 0b1011001100000001 = .ok (.jumpToAddressPlusR0 0x301) := ⟨rfl, rfl, rfl, rfl⟩

theorem test_decode_immediate :
    decode 0b0011001100101010 = .ok (.skipIfRegisterIsEqualToValue 3 0x2A) ∧
      decode 0b0100111110000001 = .ok (.skipIfRegisterIsNotEqualToValue 15 0x81) ∧
      decode 0b0110000111111110 = .ok (.setRegister 1 0xFE) ∧ decode 0b0111100001111111 = .ok (.addToRegister 8 0x7F) ∧
      decode 0b1100010000001111 = .ok (.randomByte 4 0x0F) := ⟨rfl, rfl, rfl, rfl, rfl⟩

theorem test_decode_two_registers :
    decode 0b0101101010110000 = .ok (.skipIfRegistersAreEqual 10 11) ∧
      decode 0b1001101010110000 = .ok (.skipIfRegistersNotEqual 10 11) ∧
      decode 0b1000101010110000 = .ok (.copyRegister 10 11) ∧ decode 0b1000101010110001 = .ok (.or 10 11) ∧
      decode 0b1000101010110010 = .ok (.and 10 11) ∧ decode 0b1000101010110011 = .ok (.xor 10 11) ∧
      decode 0b1000101010110100 = .ok (.addRegistersWithCarry 10 11) := ⟨rfl, rfl, rfl, rfl, rfl, rfl, rfl⟩

theorem test_decode_two_registers_rest :
    decode 0b1000101010110101 = .ok (.subtractRxMinusRyWithBorrow 10 11) ∧
      decode 0b1000101010110110 = .ok (.shiftRight 10 11) ∧
      decode 0b1000101010110111 = .ok (.subtractRyMinusRxWithBorrow 10 11) ∧
      decode 0b1000101010111110 = .ok (.shiftLeft 10 11) ∧
      decode 0b1101000100101111 = .ok (.drawSprite 1 2 15) := ⟨rfl, rfl, rfl, rfl, rfl⟩

theorem test_decode_keys_and_timers :
    decode 0b1110001110011110 = .ok (.skipIfKeyPressed 3) ∧ decode 0b1110110010100001 = .ok (.skipIfKeyNotPressed 12) ∧
      decode 0b1111010100000111 = .ok (.getDelayTimer 5) ∧ decode 0b1111001100001010 = .ok (.awaitKeyPress 3) ∧
      decode 0b1111100000010101 = .ok (.setDelayTimer 8) ∧ decode 0b1111000100011000 = .ok (.setSoundTimer 1) :=
  ⟨rfl, rfl, rfl, rfl, rfl, rfl⟩

theorem test_decode_pointer :
    decode 0b1111001000011110 = .ok (.addToPointer 2) ∧ decode 0b1111010000101001 = .ok (.getCharacterIndex 4) ∧
      decode 0b1111000100110011 = .ok (.toDecimal 1) ∧ decode 0b1111101001010101 = .ok (.storeRegisters 10) ∧
      decode 0b1111111101100101 = .ok (.loadRegisters 15) := ⟨rfl, rfl, rfl, rfl, rfl⟩

/-- Vectors 2.1: words of no kind. -/
theorem test_decode_unknown :
    [0x00E1, 0x00ED, 0x01E0, 0x0FEE, 0x0000, 0x0123, 0x5AB1, 0x5ABF, 0x8AB8, 0x8ABD, 0x8ABF, 0x9AB1, 0xE09F, 0xE0A0,
      0xF00B, 0xF075, 0xFFFF, 0xF000].map (decodeTableWord 16) = List.replicate 18 none := by decide

theorem test_decodeTableWord_bits_above : decodeTableWord 8 0x55E0 = some .clearScreen := by decide

theorem test_decodeBytes :
    decodeBytes [0x63, 0x2A, 0x99] = .ok (.setRegister 3 0x2A, [0x99]) ∧ decodeBytes [0x63] = .error .truncated :=
  ⟨rfl, rfl⟩

theorem test_encode : encode (.drawSprite 1 2 15) = 0xD12F ∧ encodeBytes (.setRegister 3 0x2A) = [0x63, 0x2A] := by decide

/-- R60's own lines, as programs P1 and P6 write them. -/
theorem test_assembly :
    (Instr.drawSprite 1 3 2).assembly = "drawSprite V1, V3, 0x2".toList ∧
      (Instr.jumpToAddress 4).assembly = "jumpToAddress 0x004".toList ∧
      (Instr.setRegister 0 5).assembly = "setRegister V0, 0x05".toList ∧
      (Instr.clearScreen).assembly = "clearScreen".toList := by decide

/-! ### Accessors -/

/-- S14 with `MEM_SIZE = 16`. -/
theorem test_access_out_of_range :
    let s := withConfig base 16 none
    readByte s (-1) = none ∧ readByte s 16 = none ∧ writeByte s (-1) 0 = none ∧ writeByte s 16 0 = none ∧
      readShort s (-1) = none ∧ readShort s 15 = none ∧ readShort s 16 = none ∧ writeShort s (-1) 0 = none ∧
      writeShort s 15 0 = none ∧ writeShort s 16 0 = none ∧ readByte s 15 = some 0 ∧ readShort s 14 = some 0 := by decide

/-- S15, S16: big-endian both ways. -/
theorem test_shorts :
    readShort (withMem base 10 [0x12, 0x34]) 10 = some 0x1234 ∧
      (writeShort base 10 0xABCD).map (fun t => (readByte t 10, readByte t 11)) = some (some 0xAB, some 0xCD) := by decide

/-- Writing 0 unlists the cell (R48), so equal memories are equal data. -/
theorem test_write_zero_unlists : (withMem (withMem base 10 [0x12, 0x34]) 10 [0x00]).mem = [(11, 0x34)] := by decide

/-- Cells are listed by rising address whatever the order of the writes. -/
theorem test_write_order : (withMem (withMem (withMem base 9 [1]) 3 [2]) 6 [3]).mem = [(3, 2), (6, 3), (9, 1)] := by decide

/-! ### Control transfer (`95_test_vectors.md` 2.2) -/

theorem test_jump_F1 : ran base 0x1ABC (·.pc) = some 0x0ABC := by decide

theorem test_call_F3 : ran base 0x2300 (fun t => (t.pc, t.stack)) = some (0x300, [0x200]) := by decide

theorem test_call_F10 :
    let s := (withStack (withConfig base 4096 (some 2)) [0x100, 0x150]).withFetchWord 16 0x2300
    (match step s with | .fault (.stackOverflow l) => some (l.pc, l.stack, l.status) | _ => none) =
      some (0x200, [0x100, 0x150], .faulted .stackOverflow) := by decide

theorem test_return_F5 :
    ran (withStack base [0x200, 0x456]) 0x00EE (fun t => (t.pc, t.stack)) = some (0x456, [0x200]) := by decide

theorem test_return_F6 : ran base 0x00EE (fun t => (t.pc, t.stack)) = some (0x200, []) := by decide

theorem test_jump_plus_F8 : ran (withV base [(0, 0xFF)]) 0xBFFF (·.pc) = some 0x10FE := by decide

theorem test_jump_plus_F9 : ran (withV base [(3, 0x55)]) 0xB300 (·.pc) = some 0x300 := by decide

/-- S13. -/
theorem test_unknown_S13 : seen (step base) id = some base := by decide

/-! ### Skips (2.3) -/

theorem test_skip_eq_imm_K1_K2 :
    ran (withV base [(3, 0x2A)]) 0x332A (·.pc) = some 0x204 ∧ ran (withV base [(3, 0x2B)]) 0x332A (·.pc) = some 0x202 := by
  decide

theorem test_skip_ne_imm_K3_K4 :
    ran (withV base [(3, 0x2A)]) 0x432A (·.pc) = some 0x202 ∧ ran (withV base [(3, 0x2B)]) 0x432A (·.pc) = some 0x204 := by
  decide

theorem test_skip_eq_regs_K5_K6 :
    ran (withV base [(1, 7), (2, 7)]) 0x5120 (·.pc) = some 0x204 ∧
      ran (withV base [(1, 7), (2, 8)]) 0x5120 (·.pc) = some 0x202 := by decide

theorem test_skip_ne_regs_K7_K8 :
    ran (withV base [(1, 7), (2, 7)]) 0x9120 (·.pc) = some 0x202 ∧
      ran (withV base [(1, 7), (2, 8)]) 0x9120 (·.pc) = some 0x204 := by decide

/-- K12: the wrap of `pc`. -/
theorem test_skip_wraps_K12 : ran (setPc (withConfig base 65536 none) 0xFFFE) 0x3000 (·.pc) = some 0x0002 := by decide

/-! ### Loads, arithmetic, logic, shifts (2.4) -/

theorem test_set_A1 : ran base 0x632A (fun t => (getV t 3, t.pc)) = some (0x2A, 0x202) := by decide

theorem test_add_imm_S3 :
    ran (withV base [(1, 0xEE), (15, 0x5A)]) 0x7122 (fun t => (getV t 1, getV t 15)) = some (0x10, 0x5A) := by decide

theorem test_add_imm_A5 : ran (withV base [(15, 0xFF)]) 0x7F01 (getV · 15) = some 0 := by decide

theorem test_copy_A6 : ran (withV base [(1, 1), (2, 0x7F)]) 0x8120 (fun t => (getV t 1, getV t 2)) = some (0x7F, 0x7F) := by
  decide

theorem test_or_A7 :
    ran (withV base [(1, 0xF0), (2, 0x3C), (15, 0x5A)]) 0x8121 (fun t => (getV t 1, getV t 15)) = some (0xFC, 0x5A) := by
  decide

theorem test_and_A8 :
    ran (withV base [(1, 0xF0), (2, 0x3C), (15, 0x5A)]) 0x8122 (fun t => (getV t 1, getV t 15)) = some (0x30, 0x5A) := by
  decide

theorem test_xor_A9 :
    ran (withV base [(1, 0xF0), (2, 0x3C), (15, 0x5A)]) 0x8123 (fun t => (getV t 1, getV t 15)) = some (0xCC, 0x5A) := by
  decide

theorem test_add_A11 :
    ran (withV base [(1, 0xFF), (2, 1)]) 0x8124 (fun t => (getV t 1, getV t 15)) = some (0, 1) := by decide

theorem test_add_A15_A17 :
    ran (withV base [(15, 0xF0), (1, 0x20)]) 0x8F14 (getV · 15) = some 1 ∧
      ran (withV base [(1, 0xFE), (15, 3)]) 0x81F4 (fun t => (getV t 1, getV t 15)) = some (1, 1) := by decide

theorem test_sub_A19_A20 :
    ran (withV base [(1, 0x55), (2, 0x55)]) 0x8125 (fun t => (getV t 1, getV t 15)) = some (0, 1) ∧
      ran (withV base [(2, 1), (15, 1)]) 0x8125 (fun t => (getV t 1, getV t 15)) = some (0xFF, 0) := by decide

theorem test_sub_A23_A25 :
    ran (withV base [(15, 0x10), (1, 0x20)]) 0x8F15 (getV · 15) = some 0 ∧
      ran (withV base [(1, 0x10), (15, 1)]) 0x81F5 (fun t => (getV t 1, getV t 15)) = some (0x0F, 1) := by decide

theorem test_shift_right_A34 :
    ran (withV base [(1, 0xAB), (2, 0x54), (15, 1)]) 0x8126 (fun t => (getV t 1, getV t 2, getV t 15)) =
      some (0x2A, 0x54, 0) := by decide

theorem test_shift_right_A39_A40 :
    ran (withV base [(1, 0x55), (15, 0x77)]) 0x8F16 (fun t => (getV t 15, getV t 1)) = some (0x2A, 0x55) ∧
      ran (withV base [(1, 0xAB), (15, 7)]) 0x81F6 (fun t => (getV t 1, getV t 15)) = some (0, 1) := by decide

theorem test_sub_reverse_A27_A28 :
    ran (withV base [(1, 0x33), (2, 0x55)]) 0x8127 (fun t => (getV t 1, getV t 15)) = some (0x22, 1) ∧
      ran (withV base [(1, 0x66), (2, 0x55), (15, 1)]) 0x8127 (fun t => (getV t 1, getV t 15)) = some (0xEF, 0) := by decide

theorem test_sub_reverse_A33 :
    ran (withV base [(1, 0x10), (15, 1)]) 0x81F7 (fun t => (getV t 1, getV t 15)) = some (0xF1, 0) := by decide

theorem test_shift_left_A43 :
    ran (withV base [(2, 0xAA)]) 0x812E (fun t => (getV t 1, getV t 15)) = some (0x54, 1) := by decide

theorem test_shift_left_A49_A51 :
    ran (withV base [(1, 0xAB), (15, 0x81)]) 0x81FE (fun t => (getV t 1, getV t 15)) = some (2, 1) ∧
      ran (withV base [(15, 0x81)]) 0x8FFE (getV · 15) = some 2 := by decide

/-- A53, with the answer scripted. -/
theorem test_random_A53 :
    ran { base with host := { base.host with randomBytes := [0xB7, 0x11] } } 0xC30F
      (fun t => (getV t 3, t.host.randomBytes, t.requests)) = some (7, [0x11], [.randomByte]) := by decide

/-- With nothing scripted the answer is free, and the mask still holds: `NN = 0` gives 0 (A54). -/
theorem test_random_free : ran base 0xC300 (fun t => (t.pc, t.requests)) = some (0x202, [.randomByte]) := by decide

/-! ### Pointer and memory (2.5) -/

theorem test_set_pointer_M2 : ran (withConfig (setPc base 0) 16 none) 0xAFFF (·.i) = some 0xFFF := by decide

theorem test_add_pointer_M4_M5 :
    ran (setI (withV base [(2, 1)]) 0xFFF) 0xF21E (fun t => (t.i, getV t 15)) = some (0x1000, 0) ∧
      ran (setI (withV base [(2, 2)]) 0xFFFF) 0xF21E (·.i) = some 1 := by decide

theorem test_glyph_M7_M8 :
    ran (withV base [(4, 0x1A)]) 0xF429 (·.i) = some 0x32 ∧ ran (withV base [(4, 0xFF)]) 0xF429 (·.i) = some 0x4B := by
  decide

theorem test_decimal_M16 :
    ran (setI (withV base [(1, 0xFF)]) 0x300) 0xF133 (fun t => (t.i, readByte t 0x300, readByte t 0x301, readByte t 0x302)) =
      some (0x300, some 2, some 5, some 5) := by decide

theorem test_decimal_M17 :
    outOfBounds (step ((setI (withV base [(1, 0x7B)]) 0xFFE).withFetchWord 16 0xF133))
        (fun l => (readByte l 0xFFE, readByte l 0xFFF, l.pc, l.status)) =
      some (0x1000, some 1, some 2, 0x200, .faulted .outOfBounds) := by decide

theorem test_store_M20 :
    ran (setI (withV base [(0, 0x11), (1, 0x22), (2, 0x33)]) 0x300) 0xF155
        (fun t => (t.i, readByte t 0x300, readByte t 0x301, readByte t 0x302)) =
      some (0x302, some 0x11, some 0x22, some 0) := by decide

/-- M23: the address is not wrapped. -/
theorem test_store_M23 :
    outOfBounds (step ((setI (withV (withConfig base 65536 none) [(0, 0x11)]) 0xFFFF).withFetchWord 16 0xF255))
        (fun l => (readByte l 0xFFFF, readByte l 0, l.i, l.pc)) = some (0x10000, some 0x11, some 0, 0xFFFF, 0x200) := by
  decide

theorem test_load_M24 :
    ran (setI (withV (withMem base 0x300 [0xAA, 0xBB, 0xCC]) [(2, 0x77)]) 0x300) 0xF165
      (fun t => (getV t 0, getV t 1, getV t 2, t.i)) = some (0xAA, 0xBB, 0x77, 0x302) := by decide

theorem test_load_M26 :
    outOfBounds (step ((setI (withMem base 0xFFE [0xAA, 0xBB]) 0xFFE).withFetchWord 16 0xF265))
        (fun l => (getV l 0, getV l 1, getV l 2, l.i, l.pc)) = some (0x1000, 0xAA, 0xBB, 0, 0xFFE, 0x200) := by decide

/-! ### Devices and timers (2.6) -/

theorem test_clear_T1 : ran base 0x00E0 (fun t => (t.pc, t.requests)) = some (0x202, [.clear]) := by decide

theorem test_draw_T3 :
    ran { setI (withV (withMem base 0x300 [0xF0, 0x90]) [(1, 0x0A), (2, 5)]) 0x300 with
          host := { base.host with collided := [true] } } 0xD122 (fun t => (getV t 15, t.i, t.pc, t.requests)) =
      some (1, 0x300, 0x202, [.draw 0x0A 5 [0xF0, 0x90]]) := by decide

/-- T5, and T4's `N = 0` with `I` beyond memory. -/
theorem test_draw_T5_T4 :
    outOfBounds (step ((setI (withV base [(15, 0x5A)]) 0xFFC).withFetchWord 16 0xD125))
        (fun l => (getV l 15, l.requests, l.pc)) = some (0x1000, 0x5A, [], 0x200) ∧
      ran (setI base 0xFFFF) 0xD120 (·.requests) = some [.draw 0 0 []] := by decide

theorem test_key_T8_T9 :
    ran { withV base [(5, 7)] with host := { base.host with pressed := [true] } } 0xE59E (·.pc) = some 0x204 ∧
      ran { withV base [(5, 7)] with host := { base.host with pressed := [false] } } 0xE59E (·.pc) = some 0x202 := by decide

theorem test_key_T12 : ran (withV base [(5, 0x1A)]) 0xE59E (·.requests) = some [.isPressed 0xA] := by decide

theorem test_key_not_T10_T11 :
    ran { withV base [(5, 7)] with host := { base.host with pressed := [true] } } 0xE5A1 (·.pc) = some 0x202 ∧
      ran { withV base [(5, 7)] with host := { base.host with pressed := [false] } } 0xE5A1 (·.pc) = some 0x204 := by decide

theorem test_get_delay_T13 : ran (setDT base 0x3C) 0xF307 (fun t => (getV t 3, t.dt)) = some (0x3C, 0x3C) := by decide

theorem test_set_delay_T14 : ran (withV base [(3, 0x3C)]) 0xF315 (fun t => (t.dt, t.st)) = some (0x3C, 0) := by decide

theorem test_set_sound_T15 : ran (withV base [(3, 5)]) 0xF318 (fun t => (t.st, t.dt, t.requests)) = some (5, 0, []) := by
  decide

/-- T16; and by R150 a key event that the host would deliver next is not taken inside the cycle. -/
theorem test_await_T16 :
    ran base 0xF30A (fun t => (t.status, t.pc, getV t 3)) = some (.waiting, 0x200, 0) ∧
      seen (exec (.awaitKeyPress 3) (withMoves base [.keyEvent 0xB])) (fun t => (t.status, t.pc, getV t 3, t.host.moves)) =
        some (.waiting, 0x200, 0, [.keyEvent 0xB]) := by decide

theorem test_await_T17 :
    seen (step (withMoves (setStatus (base.withFetchWord 16 0xF30A) .waiting) [.keyEvent 0xB]))
      (fun t => (getV t 3, t.pc, t.status, t.host.moves)) = some (0x0B, 0x202, .running, []) := by decide

theorem test_tick_T18_T19 :
    seen (step (withMoves (setDT base 2) [.timerTick])) (fun t => (t.dt, t.st, t.pc)) = some (1, 0, 0x200) ∧
      seen (step (withMoves (setST base 1) [.timerTick])) (fun t => (t.dt, t.st)) = some (0, 0) := by decide

/-! ### Fetch (2.7) -/

theorem test_fetch_X1 : seen (step (setPc (withMem base 0xFFE [0x12, 0x00]) 0xFFE)) (·.pc) = some 0x200 := by decide

theorem test_fetch_X2_X3 :
    outOfBounds (step (setPc base 0xFFF)) (·.pc) = some (0xFFF, 0xFFF) ∧
      outOfBounds (step (setPc base 0x1000)) (·.pc) = some (0x1000, 0x1000) := by decide

theorem test_fetch_X4 :
    seen (step (setPc (withMem base 0x201 [0x63, 0x2A]) 0x201)) (fun t => (getV t 3, t.pc)) = some (0x2A, 0x203) := by decide

theorem test_fetch_X5 :
    outOfBounds (step (State.resetWith { memSize := 1, stackLimit := none })) (·.status) =
      some (0, .faulted .outOfBounds) := by decide

/-- X6. -/
theorem test_fetch_X6 : seen (step State.reset) id = some State.reset := by decide

/-! ### Witnesses: values that meet every hypothesis of a statement together, at the boundary of each of its clauses -/

/-- `ResetIsAllZero`: the first and the last address. -/
theorem test_witness_ResetIsAllZero :
    ((0 : Int) ≤ 0 ∧ (0 : Int) < State.reset.config.memSize) ∧ (0 : Int) ≤ 4095 ∧ (4095 : Int) < State.reset.config.memSize := by
  decide

/-- `StepKeepsWellFormed`, `StepNeverLeavesFaultedOrReconfigured`: a step that stores, one that waits, one that calls. -/
theorem test_witness_StepKeepsWellFormed :
    ((setI (withV base [(0, 0x11)]) 0xFFF).withFetchWord 16 0xF055).wf = true ∧
      (∃ t, step ((setI (withV base [(0, 0x11)]) 0xFFF).withFetchWord 16 0xF055) = .next t) ∧
      (base.withFetchWord 16 0xF30A).wf = true ∧ (∃ t, step (base.withFetchWord 16 0xF30A) = .next t) := by
  simp only [← isNext_iff]; decide

theorem test_witness_StepKeepsWellFormed_call :
    ((withStack (withConfig base 4096 (some 2)) [0x100]).withFetchWord 16 0x2300).wf = true ∧
      ∃ t, step ((withStack (withConfig base 4096 (some 2)) [0x100]).withFetchWord 16 0x2300) = .next t := by
  simp only [← isNext_iff]; decide

theorem test_witness_NothingIsRefused : State.reset.wf = true := by decide

theorem test_witness_EncodeOfDecode : decode 0x8AB4 = .ok (.addRegistersWithCarry 10 11) ∧ decode 0x00EE = .ok .returnSubroutine :=
  ⟨rfl, rfl⟩

theorem test_witness_DecodeFollowsOpcodeTable :
    (⟨"shiftLeft", .R, 0x800E, 0xF00F⟩ : OpcodeRow) ∈ opcodeTable ∧ (⟨"clearScreen", .E, 0x00E0, 0xFFFF⟩ : OpcodeRow) ∈ opcodeTable := by
  decide

theorem test_witness_OpcodeRowsAreDisjoint :
    (⟨"shiftLeft", .R, 0x800E, 0xF00F⟩ : OpcodeRow) ∈ opcodeTable ∧ (0x8ABE : Word) &&& 0xF00F = 0x800E := by decide

theorem test_witness_StepRunsDecodedInstruction :
    let s := base.withFetchWord 16 0x632A
    s.status = .running ∧ nextMove s = .startCycle ∧ readByte s s.pc.toNat = some 0x63 ∧
      readByte s (s.pc.toNat + 1) = some 0x2A ∧ decode (wordOfBytes 0x63 0x2A) = .ok (.setRegister 3 0x2A) :=
  ⟨rfl, rfl, by decide, by decide, rfl⟩

theorem test_witness_UnknownWordChangesNothing :
    base.status = .running ∧ base.host.moves = [] ∧ fetch base = some 0x0000 ∧ decode 0x0000 = .error (.unknown 0x0000) :=
  ⟨rfl, rfl, by decide, rfl⟩

/-- The last address, of which only the low byte does not exist, and the first that does not exist. -/
theorem test_witness_FetchOutsideMemoryFaults :
    (setPc base 0xFFF).status = .running ∧ nextMove (setPc base 0xFFF) = .startCycle ∧
      ((setPc base 0xFFF).config.memSize : Int) ≤ (setPc base 0xFFF).pc.toNat + 1 ∧
      ((setPc base 0x1000).config.memSize : Int) ≤ (setPc base 0x1000).pc.toNat + 1 := by decide

theorem test_witness_FaultedMachineTakesNoStep : (faultedAt base .stackOverflow).status = .faulted .stackOverflow := rfl

/-- Each timer at 0 and at 1, running and waiting. -/
theorem test_witness_TimerTickCountsDown :
    let s := withMoves (setDT base 1) [.timerTick]
    let w := setStatus (withMoves (setST base 1) [.timerTick]) .waiting
    (s.status = .running ∧ s.host.moves = .timerTick :: [] ∧ s.dt ≠ 0 ∧ s.st = 0) ∧
      w.status = .waiting ∧ w.host.moves = .timerTick :: [] ∧ w.dt = 0 ∧ w.st ≠ 0 := by decide

theorem test_witness_KeyEventCompletesWait :
    let s := withMoves (setStatus (base.withFetchWord 16 0xF30A) .waiting) [.keyEvent 0xB]
    s.status = .waiting ∧ s.host.moves = .keyEvent 0xB :: [] ∧ fetch s = some 0xF30A ∧
      decode 0xF30A = .ok (.awaitKeyPress 3) := ⟨rfl, rfl, by decide, rfl⟩

theorem test_witness_MovesThatChangeNothing :
    let w := setStatus (base.withFetchWord 16 0xF30A) .waiting
    (w.status = .waiting ∧ w.host.moves = []) ∧
      ((withMoves w [.startCycle]).status = .waiting ∧ nextMove (withMoves w [.startCycle]) = .startCycle) ∧
      (withMoves base [.keyEvent 3]).status = .running ∧ nextMove (withMoves base [.keyEvent 3]) = .keyEvent 3 := by decide

/-- `AccessesAreBoundsChecked`, `WriteByteStoresOneCell`, `ReadShortIsBigEndian`, `WriteShortIsBigEndian`: both sides of
both ends, for a byte and for a pair. -/
theorem test_witness_accessors :
    let s := withConfig base 16 none
    ((0 : Int) ≤ 15 ∧ (15 : Int) < s.config.memSize) ∧ ((-1 : Int) < 0 ∧ (s.config.memSize : Int) ≤ 16) ∧
      ((0 : Int) ≤ 14 ∧ (14 : Int) + 1 < s.config.memSize) ∧ (s.config.memSize : Int) ≤ 15 + 1 := by decide

theorem test_witness_CanonicalMemoriesAreUnique :
    Memory.wf (withMem (withMem base 9 [1]) 3 [2]).mem = true ∧ Memory.wf (withMem (withMem base 3 [2]) 9 [1]).mem = true ∧
      ∀ a, memGet (withMem (withMem base 9 [1]) 3 [2]).mem a = memGet (withMem (withMem base 3 [2]) 9 [1]).mem a :=
  ⟨by decide, by decide, fun _ => rfl⟩

theorem test_witness_ReturnPopsIntoPc :
    (withStack base [0x200, 0x456]).stack = [0x200] ++ [0x456] ∧ (withStack base []).stack = [] := ⟨rfl, rfl⟩

/-- One entry below the limit, and at the limit; no limit. -/
theorem test_witness_CallPushesItsOwnAddress :
    let s := withStack (withConfig base 4096 (some 2)) [0x100]
    let f := withStack (withConfig base 4096 (some 2)) [0x100, 0x150]
    s.config.stackLimit ≠ some s.stack.length ∧ f.config.stackLimit = some f.stack.length ∧
      base.config.stackLimit ≠ some base.stack.length := by decide

theorem test_witness_ReturnLandsOnTheCall : ∃ t, exec (.callSubroutine 0x300) base = .next t := ⟨_, rfl⟩

/-- `AddSetsCarry`: `x ≠ vf`, with the sums 255 and 256. -/
theorem test_witness_AddSetsCarry :
    let s := withV base [(1, 0xFF), (2, 0), (3, 1)]
    ((1 : Reg) ≠ vf) ∧ (getV s 1).toNat + (getV s 2).toNat = 255 ∧ (getV s 1).toNat + (getV s 3).toNat = 256 := by decide

/-- `SubtractsSetNotBorrow`: `x ≠ vf`, with the differences 0 and -1 either way round. -/
theorem test_witness_SubtractsSetNotBorrow :
    let s := withV base [(1, 0x55), (2, 0x55), (3, 0x56)]
    ((1 : Reg) ≠ vf) ∧ ((getV s 1).toNat : Int) - (getV s 2).toNat = 0 ∧ ((getV s 1).toNat : Int) - (getV s 3).toNat = -1 ∧
      ((3 : Reg) ≠ vf) := by decide

/-- `ShiftRightInOrder`, `ShiftLeftInOrder`: `x ≠ vf`, with `y` VF and not. -/
theorem test_witness_ShiftsInOrder : ((1 : Reg) ≠ vf) ∧ ((2 : Reg) ≠ vf) ∧ (15 : Reg) = vf := by decide

/-- The last address at which three bytes exist; the first at which they do not; one wholly outside. -/
theorem test_witness_DecimalDigits :
    ((setI base 0xFFD).i.toNat + 3 ≤ (setI base 0xFFD).config.memSize) ∧
      ((setI base 0xFFE).config.memSize < (setI base 0xFFE).i.toNat + 3) ∧
      ((1 : Nat) < 3 ∧ (setI base 0xFFE).i.toNat + 1 < (setI base 0xFFE).config.memSize) ∧
      (setI base 0xFFFF).config.memSize < (setI base 0xFFFF).i.toNat + 3 := by decide

/-- `RegistersAreStored`, `RegistersAreLoaded`, `RegisterStoreFaults`, `RegisterLoadFaults`, at the end of memory, for `X` 0, 2 and 15. -/
theorem test_witness_Transfers :
    ((setI base 0xFFD).i.toNat + (2 : Reg).val + 1 ≤ (setI base 0xFFD).config.memSize) ∧
      ((setI base 0xFFF).i.toNat + (0 : Reg).val + 1 ≤ (setI base 0xFFF).config.memSize) ∧
      ((setI base 0xFFE).config.memSize < (setI base 0xFFE).i.toNat + (2 : Reg).val + 1) ∧
      ((1 : Reg) ≤ 2 ∧ (setI base 0xFFE).i.toNat + (1 : Reg).val < (setI base 0xFFE).config.memSize) ∧
      ((setI base 0xFFE).config.memSize ≤ (setI base 0xFFE).i.toNat + (2 : Reg).val) ∧
      (setI base 0xFFF).config.memSize < (setI base 0xFFF).i.toNat + (15 : Reg).val + 1 := by decide

theorem test_witness_StoreThenLoadRoundTrips :
    let s := setI (withV base [(0, 0x11), (10, 0x22)]) 0x300
    ∃ t, exec (.storeRegisters 10) s = .next t ∧ (setI (withV t [(0, 0x99)]) 0x300).mem = t.mem ∧
      (setI (withV t [(0, 0x99)]) 0x300).config = t.config ∧ (setI (withV t [(0, 0x99)]) 0x300).i = s.i :=
  ⟨_, rfl, rfl, rfl, rfl⟩

theorem test_witness_StoreIsSeenByTheNextFetch :
    (1 ≤ (1 : Reg).val) ∧ (setI base 0x202).i.toNat = (setI base 0x202).pc.toNat + 2 ∧
      ∃ t, exec (.storeRegisters 1) (setI base 0x202) = .next t := by simp only [← isNext_iff]; decide

/-- No row with `I` beyond memory; the last rows of memory; one row too many. -/
theorem test_witness_DrawSprite :
    ((0 : Nibble) = 0 ∨ (setI base 0xFFFF).i.toNat + (0 : Nibble).toNat ≤ (setI base 0xFFFF).config.memSize) ∧
      ((setI base 0xFFC).i.toNat + (4 : Nibble).toNat ≤ (setI base 0xFFC).config.memSize) ∧
      (5 : Nibble) ≠ 0 ∧ (setI base 0xFFC).config.memSize < (setI base 0xFFC).i.toNat + (5 : Nibble).toNat := by decide

theorem test_witness_SkipsOnKey : (0xA : Nibble).toNat = (getV (withV base [(5, 0x1A)]) 5).toNat % 16 := by decide

theorem test_witness_AwaitKeyPressCompletes :
    fetch (base.withFetchWord 16 0xFF0A) = some 0xFF0A ∧ decode 0xFF0A = .ok (.awaitKeyPress 15) := ⟨by decide, rfl⟩

/-- `OnlyNamedRegistersAreWritten`, `AtMostOneRequestPerInstruction`, `PcFollowsItsClass`, `SpecialStateHasFewWriters`:
an instruction of each class that completes. -/
theorem test_witness_whole_machine :
    (∃ t, exec (.shiftLeft 1 2) base = .next t) ∧ (∃ t, exec (.awaitKeyPress 1) base = .next t) ∧
      (∃ t, exec (.skipIfKeyPressed 1) base = .next t) ∧ (∃ t, exec (.storeRegisters 1) base = .next t) ∧
      (Instr.shiftLeft 1 2).pcClass = .sequential ∧ (Instr.awaitKeyPress 1).pcClass = .sequential ∧
      (Instr.skipIfKeyPressed 1).pcClass = .skip ∧ (Instr.shiftLeft 1 2).writesPointer = false ∧
      (Instr.shiftLeft 1 2).usesStack = false :=
  ⟨⟨_, rfl⟩, ⟨_, rfl⟩, ⟨_, rfl⟩, ⟨_, rfl⟩, rfl, rfl, rfl, rfl, rfl⟩

theorem test_witness_OnlyTwoInstructionsStore :
    (Instr.loadRegisters 15).storesMemory = false ∧ ∃ t, exec (.loadRegisters 15) base = .next t := ⟨rfl, _, rfl⟩

/-- Both kinds of fault. -/
theorem test_witness_InstructionFaultsAreTheListed :
    (∃ r, exec (.toDecimal 1) (setI base 0xFFF) = .fault r) ∧
      ∃ r, exec (.callSubroutine 0x300) (withConfig base 4096 (some 0)) = .fault r := by simp only [← isFault_iff]; decide

/-- A self-jump, which stalls, and a word that does not. -/
theorem test_witness_StallsAreTheListed :
    let s := base.withFetchWord 16 0x1200
    let t := base.withFetchWord 16 0x632A
    (s.status = .running ∧ s.host.moves = [] ∧ fetch s = some 0x1200) ∧
      t.status = .running ∧ t.host.moves = [] ∧ fetch t = some 0x632A := by decide

end Sys2Proof.Tests
end

/-! Reset, the canonical memory, and the rules over all instructions (`10_state.md`). -/

namespace Sys2Proof.Machine

open Sys2Proof

/-! ### The canonical form of a memory determines it (R18, R48) -/

theorem wf_cons_iff (c : Host.Cell) (m : Memory) :
    Memory.wf (c :: m) = true ↔ Memory.allAbove c.1 m = true ∧ c.2 ≠ 0#8 ∧ Memory.wf m = true := by
  simp only [Memory.wf, Memory.rising, Memory.noZero, Bool.and_eq_true, decide_eq_true_eq]
  tauto

@[simp] theorem memGet_cons_same (c : Host.Cell) (m : Memory) : memGet (c :: m) c.1 = c.2 := if_pos rfl

theorem memGet_head_ne_zero {c : Host.Cell} {m : Memory} (h : Memory.wf (c :: m) = true) :
    memGet (c :: m) c.1 ≠ 0#8 := by
  obtain ⟨-, hc, -⟩ := (wf_cons_iff c m).1 h
  rwa [memGet_cons_same]

theorem memGet_cons_ne {c : Host.Cell} {a : Nat} (h : c.1 ≠ a) (m : Memory) : memGet (c :: m) a = memGet m a := if_neg h

/-- An address below every listed one reads as 0. -/
theorem memGet_of_allAbove {k a : Nat} {m : Memory} (h : Memory.allAbove k m = true) (ha : a ≤ k) :
    memGet m a = 0#8 := by
  induction m with
  | nil => rfl
  | cons c m ih =>
    simp only [Memory.allAbove, Bool.and_eq_true, decide_eq_true_eq] at h
    rw [memGet_cons_ne (by omega), ih h.2]

/-- The lowest listed address does not read 0, so another memory with the same bytes cannot begin above it. -/
theorem head_le_of_memGet_eq {c d : Host.Cell} {m n : Memory} (hm : Memory.wf (c :: m) = true)
    (hn : Memory.wf (d :: n) = true) (h : ∀ a, memGet (c :: m) a = memGet (d :: n) a) : d.1 ≤ c.1 := by
  obtain ⟨hd, -, -⟩ := (wf_cons_iff d n).1 hn
  by_contra hlt
  have hzero : memGet (d :: n) c.1 = 0#8 := by rw [memGet_cons_ne (by omega), memGet_of_allAbove hd (by omega)]
  exact memGet_head_ne_zero hm ((h c.1).trans hzero)

/-- Settles O23, by induction on the two cell lists: their first cells agree, since each is the lowest address that does
not read 0, and so do their tails. -/
theorem canonicalMemoriesAreUnique : Obligations.CanonicalMemoriesAreUnique := by
  unfold Obligations.CanonicalMemoriesAreUnique
  intro m
  induction m with
  | nil =>
    rintro (_ | ⟨d, n⟩) - hn h
    · rfl
    · exact absurd (h d.1).symm (memGet_head_ne_zero hn)
  | cons c m ih =>
    rintro (_ | ⟨d, n⟩) hm hn h
    · exact absurd (h c.1) (memGet_head_ne_zero hm)
    · have haddr : c.1 = d.1 :=
        le_antisymm (head_le_of_memGet_eq hn hm fun a => (h a).symm) (head_le_of_memGet_eq hm hn h)
      have hbyte : c.2 = d.2 := by simpa [haddr] using (memGet_cons_same c m).symm.trans (h c.1)
      obtain ⟨hcm, -, hm⟩ := (wf_cons_iff c m).1 hm
      obtain ⟨hdn, -, hn⟩ := (wf_cons_iff d n).1 hn
      have htail : m = n := by
        refine ih n hm hn fun a => ?_
        by_cases ha : c.1 = a
        · rw [memGet_of_allAbove hcm ha.ge, memGet_of_allAbove hdn (haddr ▸ ha.ge)]
        · rw [← memGet_cons_ne ha m, h, memGet_cons_ne (haddr ▸ ha)]
      rw [Prod.ext haddr hbyte, htail]

/-! ### Reset (R25) -/

@[simp] theorem getV_resetWith (c : Config) (r : Reg) : getV (State.resetWith c) r = 0 := by
  simp [getV, State.resetWith]

theorem readByte_resetWith {c : Config} {a : Int} (h : 0 ≤ a ∧ a < c.memSize) :
    readByte (State.resetWith c) a = some 0 := readByte_of_inRange h

/-- An empty stack is within every limit. -/
theorem stackWithin_resetWith (c : Config) : stackWithin (State.resetWith c) = true := by
  unfold stackWithin
  split
  · simp [State.resetWith]
  · rfl

theorem State.wf_iff (s : State) :
    s.wf = true ↔ Memory.wf s.mem = true ∧ Memory.below s.config.memSize s.mem = true ∧ stackWithin s = true ∧
      awaitPending s = true := by
  simp only [State.wf, Bool.and_eq_true, and_assoc]

/-- Settles O1: each cell is the one `State.resetWith` writes; a byte that exists reads 0 since no cell is listed. -/
theorem resetIsAllZero : Obligations.ResetIsAllZero := fun c =>
  ⟨getV_resetWith c, rfl, rfl, rfl, rfl, rfl, fun _ h0 h => readByte_resetWith ⟨h0, h⟩, rfl, rfl⟩

/-- Settles O2, one part of the invariant after the other; a running machine has no wait pending. -/
theorem resetIsWellFormed : Obligations.ResetIsWellFormed := by
  refine ⟨fun c => (State.wf_iff _).2 ?_, Config.customary, rfl⟩
  obtain ⟨hw, hb⟩ := resetWith_memory c
  exact ⟨hw, hb, stackWithin_resetWith c, awaitPending_of_ne nofun⟩

/-! ### What the instructions with more than one outcome leave when they complete

Every other instruction answers the one next state its rule writes out, on every path. -/

theorem exec_returnSubroutine_next {s t : State} (h : exec .returnSubroutine s = .next t) :
    t = s ∨ ∃ w, t = setPc (dropTop s) w := by
  simp only [exec, execReturnSubroutine] at h
  split at h
  · cases h; exact .inr ⟨_, rfl⟩
  · cases h; exact .inl rfl

theorem exec_callSubroutine_next {nnn : Address} {s t : State} (h : exec (.callSubroutine nnn) s = .next t) :
    stackFull s = false ∧ t = setPc (push s s.pc) (zextAddress nnn) := by
  simp only [exec, execCallSubroutine] at h
  split at h
  · cases h
  · cases h; exact ⟨Bool.eq_false_iff.2 ‹_›, rfl⟩

theorem exec_drawSprite_next {x y : Reg} {n : Nibble} {s t : State} (h : exec (.drawSprite x y n) s = .next t) :
    ∃ rows f, t = advance (setFlag (askDraw s (getV s x) (getV s y) rows) f) := by
  simp only [exec, execDrawSprite] at h
  split at h
  · cases h; exact ⟨_, _, rfl⟩
  · cases h

/-- Stores that complete change memory alone, and keep what the invariant says of it. -/
theorem storeBytes_eq_next {bs : List Byte} {a : Int} {s t : State} (h : storeBytes bs a s = .next t) :
    ∃ m, t = setMem s m ∧ (Memory.wf s.mem = true → Memory.wf m = true) ∧
      (Memory.below s.config.memSize s.mem = true → Memory.below s.config.memSize m = true) := by
  obtain ⟨m, hw, hb, hs | ⟨_, _, _, hs⟩⟩ := storeBytes_cases bs a s
  · rw [hs] at h
    cases h
    exact ⟨m, rfl, hw, hb⟩
  · rw [hs] at h
    cases h

/-- Loads that complete change the registers named, and nothing else. -/
theorem loadBytes_eq_next {rs : List Reg} {a : Int} {s t : State} (h : loadBytes rs a s = .next t) :
    ∃ u, t = setRegs s u ∧ SameRegistersBut s t rs := by
  obtain ⟨u, hu, hs | ⟨_, _, _, hs⟩⟩ := loadBytes_cases rs a s
  · rw [hs] at h
    cases h
    exact ⟨u, rfl, hu⟩
  · rw [hs] at h
    cases h

theorem exec_toDecimal_next {x : Reg} {s t : State} (h : exec (.toDecimal x) s = .next t) :
    ∃ m, t = advance (setMem s m) ∧ (Memory.wf s.mem = true → Memory.wf m = true) ∧
      (Memory.below s.config.memSize s.mem = true → Memory.below s.config.memSize m = true) := by
  obtain ⟨_, hu, hk⟩ := andThen_eq_next.1 h
  obtain ⟨m, rfl, hm⟩ := storeBytes_eq_next hu
  cases hk
  exact ⟨m, rfl, hm⟩

theorem exec_storeRegisters_next {x : Reg} {s t : State} (h : exec (.storeRegisters x) s = .next t) :
    ∃ m, t = advance (setI (setMem s m) (pointerPast s x)) ∧ (Memory.wf s.mem = true → Memory.wf m = true) ∧
      (Memory.below s.config.memSize s.mem = true → Memory.below s.config.memSize m = true) := by
  obtain ⟨_, hu, hk⟩ := andThen_eq_next.1 h
  obtain ⟨m, rfl, hm⟩ := storeBytes_eq_next hu
  cases hk
  exact ⟨m, rfl, hm⟩

theorem exec_loadRegisters_next {x : Reg} {s t : State} (h : exec (.loadRegisters x) s = .next t) :
    ∃ u, t = advance (setI (setRegs s u) (pointerPast s x)) ∧ SameRegistersBut s t (registersThrough x) := by
  obtain ⟨_, hu, hk⟩ := andThen_eq_next.1 h
  obtain ⟨u, rfl, hr⟩ := loadBytes_eq_next hu
  cases hk
  exact ⟨u, rfl, hr⟩

/-! ### Who writes what, over all instructions (R11, R12, R14, R16, R17, R24) -/

/-- Settles O54, by the shape of each instruction's writes; an instruction without a destination keeps the register
file as it is. -/
theorem onlyNamedRegistersAreWritten : Obligations.OnlyNamedRegistersAreWritten := by
  unfold Obligations.OnlyNamedRegistersAreWritten
  intro i s t h
  cases i with
  | setRegister x | addToRegister x | copyRegister x | or x | and x | xor x | randomByte x | getDelayTimer x =>
    cases h
    exact sameRegistersBut_setV s x _
  | addRegistersWithCarry x | subtractRxMinusRyWithBorrow x | subtractRyMinusRxWithBorrow x =>
    cases h
    exact (writeThenFlag_frame s x _ _).2.1
  | shiftRight x | shiftLeft x =>
    cases h
    exact (flagThenWrite_frame s x _ _).2.1
  | drawSprite =>
    obtain ⟨_, f, rfl⟩ := exec_drawSprite_next h
    exact sameRegistersBut_setV s vf (flagByte f)
  | loadRegisters =>
    obtain ⟨_, -, hr⟩ := exec_loadRegisters_next h
    exact hr
  | returnSubroutine => obtain rfl | ⟨_, rfl⟩ := exec_returnSubroutine_next h <;> exact fun _ _ => rfl
  | callSubroutine => obtain ⟨-, rfl⟩ := exec_callSubroutine_next h; exact fun _ _ => rfl
  | toDecimal => obtain ⟨_, rfl, -⟩ := exec_toDecimal_next h; exact fun _ _ => rfl
  | storeRegisters => obtain ⟨_, rfl, -⟩ := exec_storeRegisters_next h; exact fun _ _ => rfl
  | _ => cases h; exact fun _ _ => rfl

/-- Settles O56: for each cell the instructions that write it are the ones its clause leaves out, and every other
instruction's next state holds the cell as it was. -/
theorem specialStateHasFewWriters : Obligations.SpecialStateHasFewWriters := by
  unfold Obligations.SpecialStateHasFewWriters
  intro i s t h
  cases i with
  | setPointer | addToPointer | getCharacterIndex =>
    cases h
    exact ⟨nofun, fun _ => rfl, fun _ => rfl, fun _ => rfl, fun _ => rfl, rfl⟩
  | storeRegisters =>
    obtain ⟨_, rfl, -⟩ := exec_storeRegisters_next h
    exact ⟨nofun, fun _ => rfl, fun _ => rfl, fun _ => rfl, fun _ => rfl, rfl⟩
  | loadRegisters =>
    obtain ⟨_, rfl, -⟩ := exec_loadRegisters_next h
    exact ⟨nofun, fun _ => rfl, fun _ => rfl, fun _ => rfl, fun _ => rfl, rfl⟩
  | callSubroutine =>
    obtain ⟨-, rfl⟩ := exec_callSubroutine_next h
    exact ⟨fun _ => rfl, nofun, fun _ => rfl, fun _ => rfl, fun _ => rfl, rfl⟩
  | returnSubroutine =>
    obtain rfl | ⟨_, rfl⟩ := exec_returnSubroutine_next h <;>
      exact ⟨fun _ => rfl, nofun, fun _ => rfl, fun _ => rfl, fun _ => rfl, rfl⟩
  | setDelayTimer x =>
    cases h
    exact ⟨fun _ => rfl, fun _ => rfl, fun hx => absurd rfl (hx x), fun _ => rfl, fun _ => rfl, rfl⟩
  | setSoundTimer x =>
    cases h
    exact ⟨fun _ => rfl, fun _ => rfl, fun _ => rfl, fun hx => absurd rfl (hx x), fun _ => rfl, rfl⟩
  | awaitKeyPress x =>
    cases h
    exact ⟨fun _ => rfl, fun _ => rfl, fun _ => rfl, fun _ => rfl, fun hx => absurd rfl (hx x), rfl⟩
  | drawSprite =>
    obtain ⟨_, _, rfl⟩ := exec_drawSprite_next h
    exact ⟨fun _ => rfl, fun _ => rfl, fun _ => rfl, fun _ => rfl, fun _ => rfl, rfl⟩
  | toDecimal =>
    obtain ⟨_, rfl, -⟩ := exec_toDecimal_next h
    exact ⟨fun _ => rfl, fun _ => rfl, fun _ => rfl, fun _ => rfl, fun _ => rfl, rfl⟩
  | _ =>
    cases h
    exact ⟨fun _ => rfl, fun _ => rfl, fun _ => rfl, fun _ => rfl, fun _ => rfl, rfl⟩

/-- A skip adds 2 or 4, whatever its condition. -/
theorem pcPlus_skipIf_cases (s : State) (c : Bool) : PcPlus s (skipIf s c) 2 ∨ PcPlus s (skipIf s c) 4 := by
  cases c
  · exact .inl (pcPlus_skipIf s false)
  · exact .inr (pcPlus_skipIf s true)

/-- Settles O57, by class: the last write of a sequential instruction is `advance` (a wait excepted), that of a skip is
`skipIf`. -/
theorem pcFollowsItsClass : Obligations.PcFollowsItsClass := by
  unfold Obligations.PcFollowsItsClass
  intro i s t h
  cases i with
  | returnSubroutine | jumpToAddress | callSubroutine | jumpToAddressPlusR0 => exact ⟨nofun, nofun⟩
  | skipIfRegisterIsEqualToValue | skipIfRegisterIsNotEqualToValue | skipIfRegistersAreEqual
  | skipIfRegistersNotEqual | skipIfKeyPressed | skipIfKeyNotPressed =>
    cases h
    exact ⟨nofun, fun _ => pcPlus_skipIf_cases s _⟩
  | awaitKeyPress x =>
    cases h
    exact ⟨fun _ => .inr ⟨⟨x, rfl⟩, rfl, rfl⟩, nofun⟩
  | drawSprite =>
    obtain ⟨_, _, rfl⟩ := exec_drawSprite_next h
    exact ⟨fun _ => .inl (pcPlus_two rfl), nofun⟩
  | toDecimal =>
    obtain ⟨_, rfl, -⟩ := exec_toDecimal_next h
    exact ⟨fun _ => .inl (pcPlus_two rfl), nofun⟩
  | storeRegisters =>
    obtain ⟨_, rfl, -⟩ := exec_storeRegisters_next h
    exact ⟨fun _ => .inl (pcPlus_two rfl), nofun⟩
  | loadRegisters =>
    obtain ⟨_, rfl, -⟩ := exec_loadRegisters_next h
    exact ⟨fun _ => .inl (pcPlus_two rfl), nofun⟩
  | _ =>
    cases h
    exact ⟨fun _ => .inl (pcPlus_two rfl), nofun⟩

/-! ### A step that completes (R19, R24) -/

theorem exec_config {i : Instr} {s t : State} (h : exec i s = .next t) : t.config = s.config := by
  obtain ⟨-, -, -, -, -, hc⟩ := specialStateHasFewWriters i s t h
  exact hc

/-- The only status an instruction writes when it completes is `waiting`. -/
theorem exec_status {i : Instr} {s t : State} (h : exec i s = .next t) : t.status = s.status ∨ t.status = .waiting := by
  by_cases hi : ∃ x, i = .awaitKeyPress x
  · obtain ⟨x, rfl⟩ := hi
    cases h
    exact .inr rfl
  · obtain ⟨-, -, -, -, hs, -⟩ := specialStateHasFewWriters i s t h
    exact .inl (hs fun x hx => hi ⟨x, hx⟩)

/-- Settles O4, by the cases of a step: a cycle keeps `running` or waits, a tick and an idle move keep the status, the
delivery of a key writes `running`. -/
theorem stepNeverLeavesFaultedOrReconfigured : Obligations.StepNeverLeavesFaultedOrReconfigured := by
  unfold Obligations.StepNeverLeavesFaultedOrReconfigured
  intro s t h
  obtain ⟨hrun, w, -, ⟨i, -, hexec⟩ | ⟨-, rfl⟩⟩ | ⟨hstatus, rfl | rfl⟩ | ⟨-, k, x, w, -, -, hkey⟩ := step_cases h
  · exact ⟨(exec_status hexec).imp_left (·.trans hrun), (exec_config hexec).trans (dropMove_config s)⟩
  · exact ⟨.inl hrun, rfl⟩
  · exact ⟨hstatus, rfl⟩
  · exact ⟨hstatus, rfl⟩
  · cases hkey
    exact ⟨.inl rfl, rfl⟩

end Sys2Proof.Machine

/-! Memory: the accessors, who stores, and the invariant that every step keeps (`20_memory.md`). -/

namespace Sys2Proof.Machine

open Sys2Proof

/-! ### What a step keeps of the invariant (R16, R18, R19, R30) -/

theorem stackWithin_iff (s : State) :
    stackWithin s = true ↔ ∀ n, s.config.stackLimit = some n → s.stack.length ≤ n := by
  unfold stackWithin
  split <;> simp_all

/-- A shorter stack, under the same limit, is still within it. -/
theorem stackWithin_of_length_le {s t : State} (hs : stackWithin s = true) (hc : t.config = s.config)
    (hl : t.stack.length ≤ s.stack.length) : stackWithin t = true :=
  (stackWithin_iff t).2 fun n hn => hl.trans ((stackWithin_iff s).1 hs n (hc ▸ hn))

/-- A stack that is within its limit and not full has room for one more entry. -/
theorem stackWithin_push {s : State} (hs : stackWithin s = true) (hfull : stackFull s = false) (w : Word) :
    stackWithin (push s w) = true := by
  refine (stackWithin_iff _).2 fun n hn => ?_
  have hle : s.stack.length ≤ n := (stackWithin_iff s).1 hs n hn
  have hne : s.stack.length ≠ n := by
    rintro rfl
    exact of_decide_eq_false hfull hn
  simp only [push_stack, List.length_append, List.length_singleton]
  omega

/-- An `awaitKeyPress` at `pc` is what a waiting machine needs. -/
theorem awaitPending_of_fetch {s : State} {w : Word} {x : Reg} (hf : fetch s = some w)
    (hd : decode w = .ok (.awaitKeyPress x)) : awaitPending s = true := by
  unfold awaitPending
  rw [hf, Option.map_some, hd]
  cases s.status <;> rfl

/-- The invariant speaks of memory, the stack, `status`, `pc` and the configuration alone. -/
theorem State.wf_congr {s t : State} (hm : t.mem = s.mem) (hk : t.stack = s.stack) (hs : t.status = s.status)
    (hp : t.pc = s.pc) (hc : t.config = s.config) : t.wf = s.wf := by
  simp only [State.wf, stackWithin, awaitPending, fetch_congr hm hc hp, hm, hk, hs, hc]

theorem exec_mem {i : Instr} {s t : State} (h : exec i s = .next t) (hi : i.storesMemory = false) : t.mem = s.mem := by
  cases i with
  | toDecimal | storeRegisters => cases hi
  | drawSprite => obtain ⟨_, _, rfl⟩ := exec_drawSprite_next h; rfl
  | loadRegisters => obtain ⟨_, rfl, -⟩ := exec_loadRegisters_next h; rfl
  | returnSubroutine => obtain rfl | ⟨_, rfl⟩ := exec_returnSubroutine_next h <;> rfl
  | callSubroutine => obtain ⟨-, rfl⟩ := exec_callSubroutine_next h; rfl
  | _ => cases h; rfl

/-- An instruction keeps memory canonical and within `MEM_SIZE`. -/
theorem exec_keeps_memory {i : Instr} {s t : State} (h : exec i s = .next t) (hw : Memory.wf s.mem = true)
    (hb : Memory.below s.config.memSize s.mem = true) :
    Memory.wf t.mem = true ∧ Memory.below t.config.memSize t.mem = true := by
  cases i with
  | toDecimal =>
    obtain ⟨_, rfl, hmw, hmb⟩ := exec_toDecimal_next h
    exact ⟨hmw hw, hmb hb⟩
  | storeRegisters =>
    obtain ⟨_, rfl, hmw, hmb⟩ := exec_storeRegisters_next h
    exact ⟨hmw hw, hmb hb⟩
  | _ =>
    rw [exec_mem h rfl, exec_config h]
    exact ⟨hw, hb⟩

/-- An instruction keeps the stack within its limit: only a call lengthens it, and a call on a full stack faults. -/
theorem exec_keeps_stackWithin {i : Instr} {s t : State} (h : exec i s = .next t) (hs : stackWithin s = true) :
    stackWithin t = true := by
  cases i with
  | callSubroutine =>
    obtain ⟨hfull, rfl⟩ := exec_callSubroutine_next h
    exact stackWithin_push hs hfull s.pc
  | returnSubroutine =>
    obtain rfl | ⟨w, rfl⟩ := exec_returnSubroutine_next h
    · exact hs
    · exact stackWithin_of_length_le hs rfl (by simp)
  | _ =>
    obtain ⟨-, hstack, -⟩ := specialStateHasFewWriters _ s t h
    exact stackWithin_of_length_le hs (exec_config h) (by rw [hstack rfl])

/-- Of a running machine's instructions only `awaitKeyPress` leaves it waiting, and that one does not move `pc`. -/
theorem exec_awaitPending {i : Instr} {s t : State} {w : Word} (hrun : s.status = .running) (hf : fetch s = some w)
    (hd : decode w = .ok i) (h : exec i s = .next t) : awaitPending t = true := by
  by_cases hi : ∃ x, i = .awaitKeyPress x
  · obtain ⟨x, rfl⟩ := hi
    cases h
    exact awaitPending_of_fetch (by simpa using hf) hd
  · obtain ⟨-, -, -, -, hstatus, -⟩ := specialStateHasFewWriters i s t h
    refine awaitPending_of_ne ?_
    rw [hstatus fun x hx => hi ⟨x, hx⟩, hrun]
    nofun

/-- A cycle's instruction keeps the invariant. -/
theorem exec_keeps_wf {i : Instr} {s t : State} {w : Word} (hwf : s.wf = true) (hrun : s.status = .running)
    (hf : fetch s = some w) (hd : decode w = .ok i) (h : exec i s = .next t) : t.wf = true := by
  obtain ⟨hw, hb, hs, -⟩ := (State.wf_iff s).1 hwf
  obtain ⟨hw', hb'⟩ := exec_keeps_memory h hw hb
  exact (State.wf_iff t).2 ⟨hw', hb', exec_keeps_stackWithin h hs, exec_awaitPending hrun hf hd h⟩

/-- The delivery of a key keeps the invariant: the machine waits no more. -/
theorem takeKey_keeps_wf {x : Reg} {k : Nibble} {s t : State} (hwf : s.wf = true) (h : takeKey x k s = .next t) :
    t.wf = true := by
  obtain ⟨hw, hb, hs, -⟩ := (State.wf_iff s).1 hwf
  cases h
  exact (State.wf_iff _).2 ⟨hw, hb, hs, awaitPending_of_ne nofun⟩

theorem wf_dropMove (s : State) : (dropMove s).wf = s.wf := State.wf_congr rfl rfl rfl rfl rfl

theorem wf_tickTimers (s : State) : (tickTimers s).wf = s.wf := State.wf_congr rfl rfl rfl rfl rfl

/-- Settles O3, by the cases of a step: the instruction of a cycle and the delivery of a key keep each part of the
invariant, and the other moves touch no cell that it speaks of. -/
theorem stepKeepsWellFormed : Obligations.StepKeepsWellFormed := by
  unfold Obligations.StepKeepsWellFormed
  intro s t hwf h
  have hwf' : (dropMove s).wf = true := (wf_dropMove s).trans hwf
  obtain ⟨hrun, w, hf, ⟨i, hd, hexec⟩ | ⟨-, rfl⟩⟩ | ⟨-, rfl | rfl⟩ | ⟨-, k, x, w, -, -, hkey⟩ := step_cases h
  · exact exec_keeps_wf hwf' hrun ((fetch_dropMove s).trans hf) hd hexec
  · exact hwf'
  · exact (wf_tickTimers _).trans hwf'
  · exact hwf'
  · exact takeKey_keeps_wf hwf' hkey

/-- Settles O55: an instruction that stores nothing leaves the cells and `MEM_SIZE` as they are. -/
theorem onlyTwoInstructionsStore : Obligations.OnlyTwoInstructionsStore := fun _ _ _ h hi =>
  sameMemory_of_eq (exec_mem h hi) (exec_config h)

/-! ### The accessors (R31 to R35) -/

/-- `write_short` within memory: the two bytes stand at their addresses, every other one reads as before, and memory is all
that differs. -/
theorem writeShort_of_inRange {s : State} {a : Int} (h : 0 ≤ a ∧ a + 1 < s.config.memSize) (w : Word) :
    ∃ t, writeShort s a w = some t ∧ setMem t s.mem = s ∧ ∀ c, readByte t c =
      if c = a + 1 then some (lowByte w) else if c = a then some (highByte w) else readByte s c := by
  have hhi : 0 ≤ a ∧ a < s.config.memSize := by omega
  have hlo (m : Memory) : 0 ≤ a + 1 ∧ a + 1 < (setMem s m).config.memSize := ⟨by omega, h.2⟩
  have hwrite : writeShort s a w =
      writeByte (setMem s (memSet s.mem a.toNat (highByte w))) (a + 1) (lowByte w) := by
    rw [writeShort, if_pos ((inRange_iff s _).2 (hlo s.mem)), writeByte_of_inRange hhi]
  refine ⟨_, hwrite.trans (writeByte_of_inRange (hlo _) _), rfl, fun c => ?_⟩
  rw [readByte_store (hlo _), readByte_store hhi]

theorem writeShort_eq_none (s : State) (a : Int) (w : Word) :
    writeShort s a w = none ↔ ¬ (0 ≤ a ∧ a + 1 < s.config.memSize) := by
  by_cases h : 0 ≤ a ∧ a + 1 < s.config.memSize
  · obtain ⟨t, ht, -⟩ := writeShort_of_inRange h w
    simp [ht, h]
  · refine iff_of_true ?_ h
    unfold writeShort
    split
    · rename_i hlo
      have hhi : ¬ (0 ≤ a ∧ a < s.config.memSize) := by
        have := (inRange_iff s _).1 hlo
        omega
      rw [(writeByte_eq_none s a _).2 hhi]
    · rfl

/-- Settles O19, accessor by accessor: each fails exactly when the bounds it checks do not hold. -/
theorem accessesAreBoundsChecked : Obligations.AccessesAreBoundsChecked := by
  intro s a b w
  rw [readByte_eq_none, writeByte_eq_none, readShort_eq_none, writeShort_eq_none]
  simp only [not_and_or, not_le, not_lt, and_self]

/-- Settles O20: a read after the write, and the bounds check. -/
theorem writeByteStoresOneCell : Obligations.WriteByteStoresOneCell := by
  intro s a b
  obtain ⟨-, hnone, -⟩ := accessesAreBoundsChecked s a b 0
  refine ⟨fun h0 h => ?_, hnone.2⟩
  refine ⟨_, writeByte_of_inRange ⟨h0, h⟩ b, ?_, fun c hc => ?_, rfl⟩
  · rw [readByte_store ⟨h0, h⟩, if_pos rfl]
  · rw [readByte_store ⟨h0, h⟩, if_neg hc]

/-- Settles O21: a short in range is answered, and by the two bytes that its addresses read. -/
theorem readShortIsBigEndian : Obligations.ReadShortIsBigEndian := by
  intro s a
  obtain ⟨-, -, hnone, -⟩ := accessesAreBoundsChecked s a 0 0
  refine ⟨fun h0 h => ?_, hnone.2⟩
  have hsome : readShort s a ≠ none := fun hn => (readShort_eq_none s a).1 hn ⟨h0, h⟩
  obtain ⟨w, hw⟩ := Option.ne_none_iff_exists'.1 hsome
  obtain ⟨hi, lo, hhi, hlo, rfl⟩ := readShort_some hw
  exact ⟨_, hi, lo, hw, hhi, hlo, wordOfBytes_toNat hi lo⟩

/-- Settles O22: the reads after the two stores, and the bounds check. -/
theorem writeShortIsBigEndian : Obligations.WriteShortIsBigEndian := by
  intro s a w
  obtain ⟨-, -, -, hnone⟩ := accessesAreBoundsChecked s a 0 w
  refine ⟨fun h0 h => ?_, hnone.2⟩
  obtain ⟨t, ht, hrest, hread⟩ := writeShort_of_inRange ⟨h0, h⟩ w
  refine ⟨t, highByte w, lowByte w, ht, ?_, ?_, highByte_toNat w, lowByte_toNat w, fun c hc => ?_, hrest⟩
  · rw [hread, if_neg (by omega), if_pos rfl]
  · rw [hread, if_pos rfl]
  · rw [hread, if_neg (by omega), if_neg (by omega)]

end Sys2Proof.Machine

/-! The decoder against the encoder and the opcode map, and the cycle that runs what is decoded (`30_encoding.md`). -/

namespace Sys2Proof

/-! ### Decoding an encoded word (R51, R55) -/

/-- Settles O6, by the decoder that answers the kind: the fields of the word a format puts together are the ones given,
so the top nibble, and the function field where there is one, select the instruction's own arm. -/
theorem decodeOfEncode : Obligations.DecodeOfEncode := by
  unfold Obligations.DecodeOfEncode
  intro i
  cases i with
  | clearScreen | returnSubroutine => rfl
  | jumpToAddress | callSubroutine | setPointer | jumpToAddressPlusR0 | skipIfRegisterIsEqualToValue
  | skipIfRegisterIsNotEqualToValue | setRegister | addToRegister | randomByte | skipIfRegistersAreEqual
  | skipIfRegistersNotEqual | drawSprite => simp [encode, decode]
  | copyRegister | or | and | xor | addRegistersWithCarry | subtractRxMinusRyWithBorrow | shiftRight
  | subtractRyMinusRxWithBorrow | shiftLeft => simp [encode, decode, decode8]
  | skipIfKeyPressed | skipIfKeyNotPressed => simp [encode, decode, decodeE]
  | getDelayTimer | awaitKeyPress | setDelayTimer | setSoundTimer | addToPointer | getCharacterIndex | toDecimal
  | storeRegisters | loadRegisters => simp [encode, decode, decodeF]

/-! ### A word from the fields that select its row -/

section
variable {w : Word} {op n : Nibble} {nn : Byte}

theorem formatA_of_fieldOp (hop : fieldOp w = op) : formatA op (fieldNNN w) = w := hop ▸ formatA_fields w

theorem formatI_of_fieldOp (hop : fieldOp w = op) : formatI op (fieldX w) (fieldNN w) = w := hop ▸ formatI_fields w

theorem formatR_of_fieldOp (hop : fieldOp w = op) : formatR op (fieldX w) (fieldY w) (fieldN w) = w :=
  hop ▸ formatR_fields w

theorem formatI_of_fields (hop : fieldOp w = op) (hnn : fieldNN w = nn) : formatI op (fieldX w) nn = w :=
  hnn ▸ formatI_of_fieldOp hop

theorem formatR_of_fields (hop : fieldOp w = op) (hn : fieldN w = n) : formatR op (fieldX w) (fieldY w) n = w :=
  hn ▸ formatR_of_fieldOp hop

/-! ### What the masks of R55 read -/

theorem fieldOp_of_mask (h : w &&& 0xF000#16 = formatA op 0) : fieldOp w = op := by
  rw [← formatA_fields w, formatA_mask] at h
  simpa using congrArg fieldOp h

theorem fields_of_maskByte (h : w &&& 0xF0FF#16 = formatI op 0 nn) : fieldOp w = op ∧ fieldNN w = nn := by
  rw [← formatI_fields w, formatI_maskByte] at h
  exact ⟨by simpa using congrArg fieldOp h, by simpa using congrArg fieldNN h⟩

theorem fields_of_maskNibble (h : w &&& 0xF00F#16 = formatR op 0 0 n) : fieldOp w = op ∧ fieldN w = n := by
  rw [← formatR_fields w, formatR_maskNibble] at h
  exact ⟨by simpa using congrArg fieldOp h, by simpa using congrArg fieldN h⟩

theorem formatA_of_mask (h : w &&& 0xF000#16 = formatA op 0) : formatA op (fieldNNN w) = w :=
  formatA_of_fieldOp (fieldOp_of_mask h)

theorem formatI_of_mask (h : w &&& 0xF000#16 = formatA op 0) : formatI op (fieldX w) (fieldNN w) = w :=
  formatI_of_fieldOp (fieldOp_of_mask h)

theorem formatR_of_mask (h : w &&& 0xF000#16 = formatA op 0) : formatR op (fieldX w) (fieldY w) (fieldN w) = w :=
  formatR_of_fieldOp (fieldOp_of_mask h)

theorem formatI_of_maskByte (h : w &&& 0xF0FF#16 = formatI op 0 nn) : formatI op (fieldX w) nn = w := by
  obtain ⟨hop, hnn⟩ := fields_of_maskByte h
  exact formatI_of_fields hop hnn

theorem formatR_of_maskNibble (h : w &&& 0xF00F#16 = formatR op 0 0 n) : formatR op (fieldX w) (fieldY w) n = w := by
  obtain ⟨hop, hn⟩ := fields_of_maskNibble h
  exact formatR_of_fields hop hn

end

/-! ### A word that decodes (R53, R54) -/

theorem encode_of_decode0 {w : Word} {i : Instr} (h : decode0 w = .ok i) : encode i = w := by
  unfold decode0 at h
  split_ifs at h with h0 h1
  · cases h; exact h0.symm
  · cases h; exact h1.symm

theorem encode_of_decode8 {w : Word} {i : Instr} (hop : fieldOp w = 0x8) (h : decode8 w = .ok i) : encode i = w := by
  unfold decode8 at h
  split at h
  case h_1 hn | h_2 hn | h_3 hn | h_4 hn | h_5 hn | h_6 hn | h_7 hn | h_8 hn | h_9 hn =>
    cases h
    exact formatR_of_fields hop (BitVec.eq_of_toNat_eq hn)
  case h_10 => cases h

theorem encode_of_decodeE {w : Word} {i : Instr} (hop : fieldOp w = 0xE) (h : decodeE w = .ok i) : encode i = w := by
  unfold decodeE at h
  split at h
  case h_1 hnn | h_2 hnn =>
    cases h
    exact formatI_of_fields hop (BitVec.eq_of_toNat_eq hnn)
  case h_3 => cases h

theorem encode_of_decodeF {w : Word} {i : Instr} (hop : fieldOp w = 0xF) (h : decodeF w = .ok i) : encode i = w := by
  unfold decodeF at h
  split at h
  case h_1 hnn | h_2 hnn | h_3 hnn | h_4 hnn | h_5 hnn | h_6 hnn | h_7 hnn | h_8 hnn | h_9 hnn =>
    cases h
    exact formatI_of_fields hop (BitVec.eq_of_toNat_eq hnn)
  case h_10 => cases h

/-- Settles O7, by the top nibble: the instruction is made of the word's own fields, and its pattern puts them together
again. -/
theorem encodeOfDecode : Obligations.EncodeOfDecode := by
  unfold Obligations.EncodeOfDecode
  intro w i h
  unfold decode at h
  split at h
  case h_1 => exact encode_of_decode0 h
  case h_2 hop | h_3 hop | h_11 hop | h_12 hop => cases h; exact formatA_of_fieldOp (BitVec.eq_of_toNat_eq hop)
  case h_4 hop | h_5 hop | h_7 hop | h_8 hop | h_13 hop => cases h; exact formatI_of_fieldOp (BitVec.eq_of_toNat_eq hop)
  case h_6 hop | h_10 hop =>
    split_ifs at h with hn
    cases h
    exact formatR_of_fields (BitVec.eq_of_toNat_eq hop) hn
  case h_9 hop => exact encode_of_decode8 (BitVec.eq_of_toNat_eq hop) h
  case h_14 hop => cases h; exact formatR_of_fieldOp (BitVec.eq_of_toNat_eq hop)
  case h_15 hop => exact encode_of_decodeE (BitVec.eq_of_toNat_eq hop) h
  case h_16 hop => exact encode_of_decodeF (BitVec.eq_of_toNat_eq hop) h
  case h_17 => cases h

/-! ### The opcode map (R55) -/

/-- A word that matches the row is the word of an instruction of the row's kind. -/
def RowHasInstr (w : Word) (r : OpcodeRow) : Prop :=
  w &&& r.mask = r.pattern → ∃ i : Instr, encode i = w ∧ i.mnemonic = r.mnemonic

theorem rowHasInstr_EAID (w : Word) : ∀ r ∈ opcodeRowsEAID, RowHasInstr w r := by
  simp only [opcodeRowsEAID, List.forall_mem_cons]
  exact ⟨fun h => ⟨.clearScreen, h.symm.trans BitVec.and_allOnes, rfl⟩,
    fun h => ⟨.returnSubroutine, h.symm.trans BitVec.and_allOnes, rfl⟩,
    fun h => ⟨.jumpToAddress (fieldNNN w), formatA_of_mask h, rfl⟩,
    fun h => ⟨.callSubroutine (fieldNNN w), formatA_of_mask h, rfl⟩,
    fun h => ⟨.skipIfRegisterIsEqualToValue (fieldX w) (fieldNN w), formatI_of_mask h, rfl⟩,
    fun h => ⟨.skipIfRegisterIsNotEqualToValue (fieldX w) (fieldNN w), formatI_of_mask h, rfl⟩,
    fun h => ⟨.setRegister (fieldX w) (fieldNN w), formatI_of_mask h, rfl⟩,
    fun h => ⟨.addToRegister (fieldX w) (fieldNN w), formatI_of_mask h, rfl⟩,
    fun h => ⟨.setPointer (fieldNNN w), formatA_of_mask h, rfl⟩,
    fun h => ⟨.jumpToAddressPlusR0 (fieldNNN w), formatA_of_mask h, rfl⟩,
    fun h => ⟨.randomByte (fieldX w) (fieldNN w), formatI_of_mask h, rfl⟩,
    fun h => ⟨.drawSprite (fieldX w) (fieldY w) (fieldN w), formatR_of_mask h, rfl⟩, nofun⟩

theorem rowHasInstr_R (w : Word) : ∀ r ∈ opcodeRowsR, RowHasInstr w r := by
  simp only [opcodeRowsR, List.forall_mem_cons]
  exact ⟨fun h => ⟨.skipIfRegistersAreEqual (fieldX w) (fieldY w), formatR_of_maskNibble h, rfl⟩,
    fun h => ⟨.copyRegister (fieldX w) (fieldY w), formatR_of_maskNibble h, rfl⟩,
    fun h => ⟨.or (fieldX w) (fieldY w), formatR_of_maskNibble h, rfl⟩,
    fun h => ⟨.and (fieldX w) (fieldY w), formatR_of_maskNibble h, rfl⟩,
    fun h => ⟨.xor (fieldX w) (fieldY w), formatR_of_maskNibble h, rfl⟩,
    fun h => ⟨.addRegistersWithCarry (fieldX w) (fieldY w), formatR_of_maskNibble h, rfl⟩,
    fun h => ⟨.subtractRxMinusRyWithBorrow (fieldX w) (fieldY w), formatR_of_maskNibble h, rfl⟩,
    fun h => ⟨.shiftRight (fieldX w) (fieldY w), formatR_of_maskNibble h, rfl⟩,
    fun h => ⟨.subtractRyMinusRxWithBorrow (fieldX w) (fieldY w), formatR_of_maskNibble h, rfl⟩,
    fun h => ⟨.shiftLeft (fieldX w) (fieldY w), formatR_of_maskNibble h, rfl⟩,
    fun h => ⟨.skipIfRegistersNotEqual (fieldX w) (fieldY w), formatR_of_maskNibble h, rfl⟩, nofun⟩

theorem rowHasInstr_S (w : Word) : ∀ r ∈ opcodeRowsS, RowHasInstr w r := by
  simp only [opcodeRowsS, List.forall_mem_cons]
  exact ⟨fun h => ⟨.skipIfKeyPressed (fieldX w), formatI_of_maskByte h, rfl⟩,
    fun h => ⟨.skipIfKeyNotPressed (fieldX w), formatI_of_maskByte h, rfl⟩,
    fun h => ⟨.getDelayTimer (fieldX w), formatI_of_maskByte h, rfl⟩,
    fun h => ⟨.awaitKeyPress (fieldX w), formatI_of_maskByte h, rfl⟩,
    fun h => ⟨.setDelayTimer (fieldX w), formatI_of_maskByte h, rfl⟩,
    fun h => ⟨.setSoundTimer (fieldX w), formatI_of_maskByte h, rfl⟩,
    fun h => ⟨.addToPointer (fieldX w), formatI_of_maskByte h, rfl⟩,
    fun h => ⟨.getCharacterIndex (fieldX w), formatI_of_maskByte h, rfl⟩,
    fun h => ⟨.toDecimal (fieldX w), formatI_of_maskByte h, rfl⟩,
    fun h => ⟨.storeRegisters (fieldX w), formatI_of_maskByte h, rfl⟩,
    fun h => ⟨.loadRegisters (fieldX w), formatI_of_maskByte h, rfl⟩, nofun⟩

theorem rowHasInstr (w : Word) : ∀ r ∈ opcodeTable, RowHasInstr w r :=
  List.forall_mem_append.2
    ⟨List.forall_mem_append.2 ⟨rowHasInstr_EAID w, rowHasInstr_R w⟩, rowHasInstr_S w⟩

theorem row_eq_of_mnemonic_eq {r q : OpcodeRow} (hr : r ∈ opcodeTable) (hq : q ∈ opcodeTable)
    (h : r.mnemonic = q.mnemonic) : r = q :=
  List.inj_on_of_nodup_map (f := OpcodeRow.mnemonic) (by decide) hr hq h

open Laws.EncodingMatchesRow in
/-- The family `EncodingMatchesRow` as one statement. -/
theorem encodingMatchesRow : ∀ i : Instr, Statement i
  | .clearScreen => clearScreen
  | .returnSubroutine => returnSubroutine
  | .jumpToAddress nnn => jumpToAddress nnn
  | .callSubroutine nnn => callSubroutine nnn
  | .skipIfRegisterIsEqualToValue x nn => skipIfRegisterIsEqualToValue x nn
  | .skipIfRegisterIsNotEqualToValue x nn => skipIfRegisterIsNotEqualToValue x nn
  | .skipIfRegistersAreEqual x y => skipIfRegistersAreEqual x y
  | .setRegister x nn => setRegister x nn
  | .addToRegister x nn => addToRegister x nn
  | .copyRegister x y => copyRegister x y
  | .or x y => or x y
  | .and x y => and x y
  | .xor x y => xor x y
  | .addRegistersWithCarry x y => addRegistersWithCarry x y
  | .subtractRxMinusRyWithBorrow x y => subtractRxMinusRyWithBorrow x y
  | .shiftRight x y => shiftRight x y
  | .subtractRyMinusRxWithBorrow x y => subtractRyMinusRxWithBorrow x y
  | .shiftLeft x y => shiftLeft x y
  | .skipIfRegistersNotEqual x y => skipIfRegistersNotEqual x y
  | .setPointer nnn => setPointer nnn
  | .jumpToAddressPlusR0 nnn => jumpToAddressPlusR0 nnn
  | .randomByte x nn => randomByte x nn
  | .drawSprite x y n => drawSprite x y n
  | .skipIfKeyPressed x => skipIfKeyPressed x
  | .skipIfKeyNotPressed x => skipIfKeyNotPressed x
  | .getDelayTimer x => getDelayTimer x
  | .awaitKeyPress x => awaitKeyPress x
  | .setDelayTimer x => setDelayTimer x
  | .setSoundTimer x => setSoundTimer x
  | .addToPointer x => addToPointer x
  | .getCharacterIndex x => getCharacterIndex x
  | .toDecimal x => toDecimal x
  | .storeRegisters x => storeRegisters x
  | .loadRegisters x => loadRegisters x

/-- Settles O8: a word that matches a row is an encoded word of the row's kind, and decodes to it; a word that decodes is
the encoded word, which matches the one row of that name. -/
theorem decodeFollowsOpcodeTable : Obligations.DecodeFollowsOpcodeTable := by
  unfold Obligations.DecodeFollowsOpcodeTable
  intro w r hr
  constructor
  · intro hmatch
    obtain ⟨i, rfl, hname⟩ := rowHasInstr w r hr hmatch
    exact ⟨i, decodeOfEncode i, hname⟩
  · rintro ⟨i, hdecode, hname⟩
    obtain ⟨q, hq, hqname, hmatch⟩ := encodingMatchesRow i
    obtain rfl : q = r := row_eq_of_mnemonic_eq hq hr (hqname.trans hname)
    rwa [encodeOfDecode w i hdecode] at hmatch

/-! ### Words of no kind (R56, R57) -/

theorem decode0_eq_unknown (w : Word) : decode0 w = .error (.unknown w) ↔ w ≠ 0x00E0 ∧ w ≠ 0x00EE := by
  unfold decode0
  split_ifs <;> simp_all

theorem decode8_eq_unknown (w : Word) :
    decode8 w = .error (.unknown w) ↔ fieldN w = 0x8 ∨ fieldN w = 0x9 ∨ fieldN w = 0xA ∨ fieldN w = 0xB ∨
      fieldN w = 0xC ∨ fieldN w = 0xD ∨ fieldN w = 0xF := by
  unfold decode8
  split
  case h_1 hn | h_2 hn | h_3 hn | h_4 hn | h_5 hn | h_6 hn | h_7 hn | h_8 hn | h_9 hn =>
    simp [(BitVec.toNat_eq_nat.1 hn).2]
  case h_10 =>
    simp_all [← BitVec.toNat_inj]
    omega

theorem decodeE_eq_unknown (w : Word) :
    decodeE w = .error (.unknown w) ↔ fieldNN w ≠ 0x9E ∧ fieldNN w ≠ 0xA1 := by
  unfold decodeE
  split
  case h_1 hnn | h_2 hnn => simp [(BitVec.toNat_eq_nat.1 hnn).2]
  case h_3 => simp_all [← BitVec.toNat_inj]

theorem decodeF_eq_unknown (w : Word) :
    decodeF w = .error (.unknown w) ↔ fieldNN w ≠ 0x07 ∧ fieldNN w ≠ 0x0A ∧ fieldNN w ≠ 0x15 ∧ fieldNN w ≠ 0x18 ∧
      fieldNN w ≠ 0x1E ∧ fieldNN w ≠ 0x29 ∧ fieldNN w ≠ 0x33 ∧ fieldNN w ≠ 0x55 ∧ fieldNN w ≠ 0x65 := by
  unfold decodeF
  split
  case h_1 hnn | h_2 hnn | h_3 hnn | h_4 hnn | h_5 hnn | h_6 hnn | h_7 hnn | h_8 hnn | h_9 hnn =>
    simp [(BitVec.toNat_eq_nat.1 hnn).2]
  case h_10 => simp_all [← BitVec.toNat_inj]

/-- Settles O10, by the top nibble: it selects the region, and the decoder of that nibble says which words of it are of no
kind. -/
theorem unknownWordsAreTheUnlisted : Obligations.UnknownWordsAreTheUnlisted := by
  unfold Obligations.UnknownWordsAreTheUnlisted
  intro w
  unfold decode
  split
  case h_1 hop => simp [(BitVec.toNat_eq_nat.1 hop).2, decode0_eq_unknown]
  case h_2 hop | h_3 hop | h_4 hop | h_5 hop | h_6 hop | h_7 hop | h_8 hop | h_10 hop | h_11 hop | h_12 hop | h_13 hop
    | h_14 hop => simp [(BitVec.toNat_eq_nat.1 hop).2]
  case h_9 hop => simp [(BitVec.toNat_eq_nat.1 hop).2, decode8_eq_unknown]
  case h_15 hop => simp [(BitVec.toNat_eq_nat.1 hop).2, decodeE_eq_unknown]
  case h_16 hop => simp [(BitVec.toNat_eq_nat.1 hop).2, decodeF_eq_unknown]
  case h_17 =>
    have hlt := (fieldOp w).isLt
    simp only [imp_false] at *
    omega

/-- Settles O11: each word's fields, written out, select its row; 0x01E0 is neither of the two words of top nibble 0. -/
theorem writtenOutWordsDecode : Obligations.WrittenOutWordsDecode :=
  ⟨rfl, rfl, rfl, rfl, rfl, rfl, rfl, rfl, rfl⟩

end Sys2Proof

namespace Sys2Proof.Machine

open Sys2Proof

/-! ### The cycle of a word that decodes (R21, R22, R50) -/

theorem readShort_of_bytes {s : State} {a : Int} {hi lo : Byte} (hhi : readByte s a = some hi)
    (hlo : readByte s (a + 1) = some lo) : readShort s a = some (wordOfBytes hi lo) := by
  simp only [readShort, hhi, hlo]

theorem execute_of_decode {w : Word} {i : Instr} (h : decode w = .ok i) (s : State) : execute w s = exec i s := by
  simp only [execute, h]

/-- Settles O12: the two bytes are the word fetched, and its cycle is the instruction it decodes to. -/
theorem stepRunsDecodedInstruction : Obligations.StepRunsDecodedInstruction := by
  unfold Obligations.StepRunsDecodedInstruction
  intro s hi lo i hrun hmove hhi hlo hdecode
  have hfetch : fetch s = some (wordOfBytes hi lo) := readShort_of_bytes hhi hlo
  rw [step_of_fetch hrun hmove hfetch, execute_of_decode hdecode]

end Sys2Proof.Machine

/-! Control transfer: what a return, a jump, a call and an unknown word do, and which cycles change nothing
(`40_flow.md`, `70_reset_and_hazards.md` sections 3 and 4). -/

namespace Sys2Proof.Machine

open Sys2Proof

/-! ### The transfers' rules, one equation per case (R70 to R73) -/

theorem exec_returnSubroutine_of_append {s : State} {rest : List Word} {w : Word} (h : s.stack = rest ++ [w]) :
    exec .returnSubroutine s = .next (setPc (dropTop s) w) := by
  simp [exec, execReturnSubroutine, top, h]

theorem exec_returnSubroutine_of_nil {s : State} (h : s.stack = []) : exec .returnSubroutine s = .next s := by
  simp [exec, execReturnSubroutine, top, h]

theorem exec_jumpToAddress (nnn : Address) (s : State) :
    exec (.jumpToAddress nnn) s = .next (setPc s (zextAddress nnn)) := rfl

theorem exec_jumpToAddressPlusR0 (nnn : Address) (s : State) :
    exec (.jumpToAddressPlusR0 nnn) s = .next (setPc s (zextAddress nnn + zextByte (getV s 0))) := rfl

theorem exec_callSubroutine_of_room {s : State} (h : s.config.stackLimit ≠ some s.stack.length) (nnn : Address) :
    exec (.callSubroutine nnn) s = .next (setPc (push s s.pc) (zextAddress nnn)) :=
  if_neg (by simpa [stackFull] using h)

theorem exec_callSubroutine_of_full {s : State} (h : s.config.stackLimit = some s.stack.length) (nnn : Address) :
    exec (.callSubroutine nnn) s = raiseStackOverflow s :=
  if_pos (decide_eq_true h)

/-! ### Where the transfers land and what they keep -/

/-- The largest target of R73, 0xFFF + 0xFF, is below 65536. -/
theorem zextAddress_add_zextByte_toNat (nnn : Address) (b : Byte) :
    (zextAddress nnn + zextByte b).toNat = nnn.toNat + b.toNat := by
  have hn := nnn.isLt
  have hb := b.isLt
  rw [BitVec.toNat_add, zextAddress_toNat, zextByte_toNat]
  omega

theorem onlyRegisters_setPc (s : State) (w : Word) : OnlyRegisters s (setPc s w) [] :=
  ⟨fun _ _ => rfl, rfl, ⟨rfl, rfl, rfl⟩, ⟨rfl, rfl, rfl, rfl⟩, sameMemory_of_eq rfl rfl⟩

@[simp] theorem setPc_self (s : State) : setPc s s.pc = s := rfl

theorem setPc_eq_self_iff (s : State) (w : Word) : setPc s w = s ↔ w = s.pc := by
  constructor
  · intro h
    exact congrArg State.pc h
  · rintro rfl
    rfl

/-- A pop takes off what the push put on, wherever `pc` went between them and goes after them. -/
@[simp] theorem setPc_dropTop_setPc_push (s : State) (w a b : Word) :
    setPc (dropTop (setPc (push s w) a)) b = setPc s b := by
  simp [dropTop, setPc, push]

/-- Settles O24: the last entry of `rest ++ [w]` is `w`, and what is left of the stack is `rest`. -/
theorem returnPopsIntoPc : Obligations.ReturnPopsIntoPc := by
  unfold Obligations.ReturnPopsIntoPc
  refine fun s => ⟨decodeOfEncode .returnSubroutine, fun rest w h => ?_, exec_returnSubroutine_of_nil⟩
  have hrest : (setPc (dropTop s) w).stack = rest := by simp [h]
  exact ⟨_, exec_returnSubroutine_of_append h, rfl, hrest, fun _ _ => rfl, rfl, rfl, rfl, ⟨rfl, rfl, rfl, rfl⟩,
    sameMemory_of_eq rfl rfl⟩

/-- Settles O25: both jumps are a write of `pc` alone. -/
theorem jumpsSetPc : Obligations.JumpsSetPc := fun s nnn =>
  ⟨decodeOfEncode (.jumpToAddress nnn), decodeOfEncode (.jumpToAddressPlusR0 nnn),
    ⟨_, exec_jumpToAddress nnn s, zextAddress_toNat nnn, onlyRegisters_setPc s _⟩,
    ⟨_, exec_jumpToAddressPlusR0 nnn s, zextAddress_add_zextByte_toNat nnn _, onlyRegisters_setPc s _⟩⟩

/-- Settles O26: with room the call pushes and writes `pc`; at the limit it raises the fault first. -/
theorem callPushesItsOwnAddress : Obligations.CallPushesItsOwnAddress := fun _ nnn =>
  ⟨fun h => ⟨_, exec_callSubroutine_of_room h nnn, zextAddress_toNat nnn, rfl, fun _ _ => rfl, rfl, rfl, rfl,
    ⟨rfl, rfl, rfl, rfl⟩, sameMemory_of_eq rfl rfl⟩, fun h => exec_callSubroutine_of_full h nnn⟩

/-- A return right after a call that completed restores the caller's state, `pc` included (R164). -/
theorem exec_returnSubroutine_of_call {s t : State} {nnn : Address} (h : exec (.callSubroutine nnn) s = .next t) :
    exec .returnSubroutine t = .next s := by
  obtain ⟨-, rfl⟩ := exec_callSubroutine_next h
  rw [exec_returnSubroutine_of_append (rest := s.stack) (w := s.pc) rfl, setPc_dropTop_setPc_push, setPc_self]

/-- Settles O27: the return leaves the very state the call started from. -/
theorem returnLandsOnTheCall : Obligations.ReturnLandsOnTheCall := fun s _ _ h =>
  ⟨s, exec_returnSubroutine_of_call h, rfl, rfl, onlyRegisters_setPc s s.pc⟩

/-! ### Cycles that change nothing (R74, R165) -/

/-- With nothing scripted the step is `execute` of the word fetched, on the state as it is. -/
theorem step_of_unscripted {s : State} {w : Word} (hrun : s.status = .running) (hmoves : s.host.moves = [])
    (hf : fetch s = some w) : step s = execute w s := by
  rw [step_of_fetch hrun (nextMove_nil hmoves) hf, dropMove_of_nil hmoves]

theorem execute_of_reject {w : Word} {e : Reject} (h : decode w = .error e) (s : State) : execute w s = .next s := by
  simp only [execute, h, execUnknown]

/-- Settles O13: the cycle of a word of no kind is the identity. -/
theorem unknownWordChangesNothing : Obligations.UnknownWordChangesNothing := by
  unfold Obligations.UnknownWordChangesNothing
  intro s w e hrun hmoves hf hd
  rw [step_of_unscripted hrun hmoves hf, execute_of_reject hd]

/-- Outside the transfer class an instruction of a running machine moves `pc` by 2 or 4, or leaves it waiting. -/
theorem exec_ne_self_of_pcClass {i : Instr} {s : State} (hrun : s.status = .running) (hi : i.pcClass ≠ .transfer) :
    exec i s ≠ .next s := by
  intro h
  obtain ⟨hseq, hskip⟩ := pcFollowsItsClass i s s h
  cases hc : i.pcClass with
  | sequential =>
    obtain hpc | ⟨-, hwait, -⟩ := hseq hc
    · exact not_pcPlus_self s (.inl rfl) hpc
    · rw [hrun] at hwait
      cases hwait
  | skip =>
    obtain hpc | hpc := hskip hc
    · exact not_pcPlus_self s (.inl rfl) hpc
    · exact not_pcPlus_self s (.inr rfl) hpc
  | transfer => exact hi hc

/-- A call that completes changes the state: its stack is one entry longer. -/
theorem exec_callSubroutine_ne_self (nnn : Address) (s : State) : exec (.callSubroutine nnn) s ≠ .next s := by
  intro h
  obtain ⟨-, hs⟩ := exec_callSubroutine_next h
  have hstack : s.stack = s.stack ++ [s.pc] := congrArg State.stack hs
  simp at hstack

/-- A return changes nothing on an empty stack only: from any other it takes an entry off. -/
theorem exec_returnSubroutine_eq_self_iff (s : State) : exec .returnSubroutine s = .next s ↔ s.stack = [] := by
  refine ⟨fun h => ?_, exec_returnSubroutine_of_nil⟩
  obtain hnil | ⟨rest, w, hs⟩ := List.eq_nil_or_concat' s.stack
  · exact hnil
  · rw [exec_returnSubroutine_of_append hs, Host.Outcome.next.injEq] at h
    have hstack : s.stack.dropLast = s.stack := congrArg State.stack h
    simp [hs] at hstack

/-- The instructions that leave a running machine as it is are those of R165. -/
theorem exec_eq_self_iff {s : State} (hrun : s.status = .running) (i : Instr) : exec i s = .next s ↔ stalls i s := by
  cases i with
  | returnSubroutine => simp [exec_returnSubroutine_eq_self_iff, stalls]
  | jumpToAddress nnn => simp [exec_jumpToAddress, setPc_eq_self_iff, stalls]
  | jumpToAddressPlusR0 nnn => simp [exec_jumpToAddressPlusR0, setPc_eq_self_iff, stalls]
  | callSubroutine nnn => simp [exec_callSubroutine_ne_self, stalls]
  | _ => exact iff_of_false (exec_ne_self_of_pcClass hrun nofun) (by simp [stalls])

/-- Settles O60: a word of no kind changes nothing, and an instruction changes nothing exactly when it stalls. -/
theorem stallsAreTheListed : Obligations.StallsAreTheListed := by
  unfold Obligations.StallsAreTheListed
  intro s w hrun hmoves hf
  rw [step_of_unscripted hrun hmoves hf]
  cases hd : decode w with
  | error e => simp [execute_of_reject hd]
  | ok i => simp [execute_of_decode hd, exec_eq_self_iff hrun]

end Sys2Proof.Machine

/-! Conditional skips on registers: where `pc` goes, and that nothing else changes (`41_skip.md`). -/

namespace Sys2Proof.Machine

open Sys2Proof

/-! ### The skips' rules, one equation per instruction (R80 to R83) -/

theorem exec_skipIfRegisterIsEqualToValue (x : Reg) (nn : Byte) (s : State) :
    exec (.skipIfRegisterIsEqualToValue x nn) s = .next (skipIf s (decide (getV s x = nn))) := rfl

theorem exec_skipIfRegisterIsNotEqualToValue (x : Reg) (nn : Byte) (s : State) :
    exec (.skipIfRegisterIsNotEqualToValue x nn) s = .next (skipIf s (decide (getV s x ≠ nn))) := rfl

theorem exec_skipIfRegistersAreEqual (x y : Reg) (s : State) :
    exec (.skipIfRegistersAreEqual x y) s = .next (skipIf s (decide (getV s x = getV s y))) := rfl

theorem exec_skipIfRegistersNotEqual (x y : Reg) (s : State) :
    exec (.skipIfRegistersNotEqual x y) s = .next (skipIf s (decide (getV s x ≠ getV s y))) := rfl

/-! ### What every skip on a condition does -/

theorem onlyRegisters_skipIf (s : State) (c : Bool) : OnlyRegisters s (skipIf s c) [] :=
  onlyRegisters_setPc s _

theorem pcPlus_skipIf_decide (s : State) (P : Prop) [Decidable P] :
    PcPlus s (skipIf s (decide P)) (if P then 4 else 2) := by
  simpa only [decide_eq_true_eq] using pcPlus_skipIf s (decide P)

/-- The rule of an instruction whose one effect is `skipIf`: the condition alone picks 4 or 2, and only `pc` is written. -/
theorem exec_skips {i : Instr} {s : State} {P : Prop} [Decidable P] (h : exec i s = .next (skipIf s (decide P))) :
    ∃ t, exec i s = .next t ∧ PcPlus s t (if P then 4 else 2) ∧ OnlyRegisters s t [] :=
  ⟨_, h, pcPlus_skipIf_decide s P, onlyRegisters_skipIf s _⟩

/-- Settles O28: both are skips, on `V[X] = NN` and on its negation. -/
theorem skipsOnImmediate : Obligations.SkipsOnImmediate := fun s x nn =>
  ⟨exec_skips (exec_skipIfRegisterIsEqualToValue x nn s), exec_skips (exec_skipIfRegisterIsNotEqualToValue x nn s)⟩

/-- Settles O29: both are skips, on `V[X] = V[Y]` and on its negation. -/
theorem skipsOnRegisters : Obligations.SkipsOnRegisters := fun s x y =>
  ⟨exec_skips (exec_skipIfRegistersAreEqual x y s), exec_skips (exec_skipIfRegistersNotEqual x y s)⟩

end Sys2Proof.Machine

/-! Register load, arithmetic, logic, shifts and the random byte: the value each leaves in `V[X]`, the flag it leaves in
VF, and that nothing else changes (`42_alu.md`). -/

namespace Sys2Proof.Machine

open Sys2Proof

/-! ### The rules, one equation per instruction: its operands in one of the three shapes (R90 to R101) -/

theorem exec_setRegister (x : Reg) (nn : Byte) (s : State) : exec (.setRegister x nn) s = writeAndAdvance s x nn := rfl

theorem exec_addToRegister (x : Reg) (nn : Byte) (s : State) :
    exec (.addToRegister x nn) s = writeAndAdvance s x (wrapSum (getV s x) nn) := rfl

theorem exec_copyRegister (x y : Reg) (s : State) : exec (.copyRegister x y) s = writeAndAdvance s x (getV s y) := rfl

theorem exec_or (x y : Reg) (s : State) : exec (.or x y) s = writeAndAdvance s x (getV s x ||| getV s y) := rfl

theorem exec_and (x y : Reg) (s : State) : exec (.and x y) s = writeAndAdvance s x (getV s x &&& getV s y) := rfl

theorem exec_xor (x y : Reg) (s : State) : exec (.xor x y) s = writeAndAdvance s x (getV s x ^^^ getV s y) := rfl

theorem exec_addRegistersWithCarry (x y : Reg) (s : State) :
    exec (.addRegistersWithCarry x y) s =
      writeThenFlag s x (wrapSum (getV s x) (getV s y)) (carry (getV s x) (getV s y)) := rfl

theorem exec_subtractRxMinusRyWithBorrow (x y : Reg) (s : State) :
    exec (.subtractRxMinusRyWithBorrow x y) s =
      writeThenFlag s x (wrapDiff (getV s x) (getV s y)) (notBorrow (getV s x) (getV s y)) := rfl

theorem exec_subtractRyMinusRxWithBorrow (x y : Reg) (s : State) :
    exec (.subtractRyMinusRxWithBorrow x y) s =
      writeThenFlag s x (wrapDiff (getV s y) (getV s x)) (notBorrow (getV s y) (getV s x)) := rfl

theorem exec_shiftRight (x y : Reg) (s : State) :
    exec (.shiftRight x y) s = flagThenShift s x y lowBit shiftedRight := rfl

theorem exec_shiftLeft (x y : Reg) (s : State) :
    exec (.shiftLeft x y) s = flagThenShift s x y highBit shiftedLeft := rfl

theorem exec_randomByte (x : Reg) (nn : Byte) (s : State) :
    exec (.randomByte x nn) s = writeAndAdvance (askRandom s) x (randomAnswer s &&& nn) := rfl

/-! ### The two flags as numbers (R96, R97, R99) -/

theorem flagByte_carry (a b : Byte) : flagByte (carry a b) = if a.toNat + b.toNat > 255 then 1 else 0 := by
  simp [flagByte, carry, exactSum]

theorem flagByte_notBorrow (a b : Byte) :
    flagByte (notBorrow a b) = if (a.toNat : Int) - b.toNat < 0 then 0 else 1 := by
  unfold flagByte notBorrow exactDiff
  by_cases h : (a.toNat : Int) - b.toNat < 0 <;> simp [h]

/-! ### What the three shapes do (R103) -/

/-- The rule of `writeAndAdvance`. The state it starts from is `u`, which is `s` but for a device asked before. -/
theorem exec_writes {i : Instr} {s u : State} {x : Reg} {b : Byte} (h : exec i s = writeAndAdvance u x b) :
    ∃ t, exec i s = .next t ∧ getV t x = b ∧ PcPlus u t 2 ∧ OnlyRegisters u t [x] :=
  ⟨_, h, by simp, writeAndAdvance_frame u x b⟩

/-- `exec_writes`, the value given as a number. -/
theorem exec_writes_toNat {i : Instr} {s u : State} {x : Reg} {b : Byte} {n : Nat}
    (h : exec i s = writeAndAdvance u x b) (hn : b.toNat = n) :
    ∃ t, exec i s = .next t ∧ (getV t x).toNat = n ∧ PcPlus u t 2 ∧ OnlyRegisters u t [x] := by
  obtain ⟨t, ht, hv, hframe⟩ := exec_writes h
  exact ⟨t, ht, hv ▸ hn, hframe⟩

/-- The rule of `writeThenFlag`: the flag is written last, so VF holds it whatever the destination. -/
theorem exec_writesThenFlags {i : Instr} {s : State} {x : Reg} {b : Byte} {f : Bool}
    (h : exec i s = writeThenFlag s x b f) :
    ∃ t, exec i s = .next t ∧ getV t vf = flagByte f ∧ (x ≠ vf → getV t x = b) ∧ PcPlus s t 2 ∧
      OnlyRegisters s t [x, vf] := by
  refine ⟨_, h, by simp [getV_setFlag], fun hx => ?_, writeThenFlag_frame s x b f⟩
  simp [getV_setFlag, Ne.symm hx]

/-- The rule of `flagThenShift`: the destination is written last, from `V[Y]` as the write of VF left it. -/
theorem exec_flagsThenShifts {i : Instr} {s : State} {x y : Reg} {flag : Byte → Bool} {shift : Byte → Byte}
    (h : exec i s = flagThenShift s x y flag shift) :
    ∃ t, exec i s = .next t ∧ (x ≠ vf → getV t vf = flagByte (flag (getV s y))) ∧
      getV t x = shift (if y = vf then flagByte (flag (getV s y)) else getV s y) ∧ PcPlus s t 2 ∧
      OnlyRegisters s t [x, vf] := by
  refine ⟨_, h, fun hx => ?_, ?_, flagThenWrite_frame s x _ _⟩
  · simp [getV_setV_ne _ _ hx, getV_setFlag]
  · simp [getV_setFlag, eq_comm]

/-! ### Loads, sums without a flag, logic (R90 to R95) -/

/-- Settles O30: both write one register, with `NN` and with `V[Y]`. -/
theorem setAndCopyRegister : Obligations.SetAndCopyRegister := fun s x y nn =>
  ⟨exec_writes (exec_setRegister x nn s), exec_writes (exec_copyRegister x y s)⟩

/-- Settles O31: the one register written is `V[X]`, and `wrapSum` is the sum mod 256. -/
theorem addImmediateWrapsWithoutFlag : Obligations.AddImmediateWrapsWithoutFlag := fun s x nn =>
  exec_writes_toNat (exec_addToRegister x nn s) (wrapSum_toNat _ _)

/-- Settles O32: the one register written is `V[X]`, with the operation on bytes, which is that on their numbers. -/
theorem logicLeavesFlagAlone : Obligations.LogicLeavesFlagAlone := fun s x y =>
  ⟨exec_writes_toNat (exec_or x y s) (BitVec.toNat_or _ _), exec_writes_toNat (exec_and x y s) (BitVec.toNat_and _ _),
    exec_writes_toNat (exec_xor x y s) (BitVec.toNat_xor _ _)⟩

/-! ### Sums and differences with a flag (R96, R97, R99) -/

/-- Settles O33: the flag is the last write, and it and the sum are of the operands before any write. -/
theorem addSetsCarry : Obligations.AddSetsCarry := by
  unfold Obligations.AddSetsCarry
  intro s x y
  obtain ⟨t, ht, hflag, hv, hframe⟩ := exec_writesThenFlags (exec_addRegistersWithCarry x y s)
  exact ⟨t, ht, hflag.trans (flagByte_carry _ _), fun hx => hv hx ▸ wrapSum_toNat _ _, hframe⟩

/-- The rule of a difference, whichever operand is subtracted from the other. -/
theorem exec_subtracts {i : Instr} {s : State} {x : Reg} {a b : Byte}
    (h : exec i s = writeThenFlag s x (wrapDiff a b) (notBorrow a b)) :
    ∃ t, exec i s = .next t ∧ getV t vf = (if (a.toNat : Int) - b.toNat < 0 then 0 else 1) ∧
      (x ≠ vf → ((getV t x).toNat : Int) = (a.toNat - b.toNat) % 256) ∧ PcPlus s t 2 ∧
      OnlyRegisters s t [x, vf] := by
  obtain ⟨t, ht, hflag, hv, hframe⟩ := exec_writesThenFlags h
  exact ⟨t, ht, hflag.trans (flagByte_notBorrow a b), fun hx => hv hx ▸ wrapDiff_toNat a b, hframe⟩

/-- Settles O34: both are differences, with the operands exchanged. -/
theorem subtractsSetNotBorrow : Obligations.SubtractsSetNotBorrow := fun s x y =>
  ⟨exec_subtracts (exec_subtractRxMinusRyWithBorrow x y s), exec_subtracts (exec_subtractRyMinusRxWithBorrow x y s)⟩

/-! ### Shifts (R98, R100) -/

/-- Settles O35: with `Y = 15` the byte shifted is the flag just written, 0 or 1, and nothing is left of it. -/
theorem shiftRightInOrder : Obligations.ShiftRightInOrder := by
  unfold Obligations.ShiftRightInOrder
  intro s x y
  obtain ⟨t, ht, hflag, hv, hframe⟩ := exec_flagsThenShifts (exec_shiftRight x y s)
  refine ⟨t, ht, fun hx => hflag hx ▸ flagByte_lowBit _, ?_, hframe⟩
  rw [hv, shiftedRight_toNat]
  split
  · rw [flagByte_lowBit]
    omega
  · rfl

/-- Settles O36: with `Y = 15` the byte shifted is the flag just written, 0 or 1, and twice that does not wrap. -/
theorem shiftLeftInOrder : Obligations.ShiftLeftInOrder := by
  unfold Obligations.ShiftLeftInOrder
  intro s x y
  obtain ⟨t, ht, hflag, hv, hframe⟩ := exec_flagsThenShifts (exec_shiftLeft x y s)
  refine ⟨t, ht, fun hx => hflag hx ▸ flagByte_highBit _, ?_, hframe⟩
  rw [hv, shiftedLeft_toNat]
  split
  · have hbyte := (getV s y).isLt
    rw [flagByte_highBit]
    omega
  · rfl

/-! ### The random byte (R101) -/

/-- The call of the random source is the one request: a state that differs from `askRandom s` in registers alone has
issued no other. -/
theorem onlyRequest_of_askRandom {s t : State} {rs : List Reg} (h : OnlyRegisters (askRandom s) t rs) :
    OnlyRequest s t .randomByte { s.host with randomBytes := s.host.randomBytes.tail } rs := by
  obtain ⟨hregs, hi, hstack, ⟨hstatus, hconfig, hrequests, hhost⟩, hmem⟩ := h
  exact ⟨hregs, hi, hstack, hmem, hstatus, hconfig, hrequests, hhost⟩

/-- Settles O37: the source is called, then one register is written with the masked answer, whatever the answer is. -/
theorem randomByteIsMasked : Obligations.RandomByteIsMasked := by
  unfold Obligations.RandomByteIsMasked
  intro s x nn
  obtain ⟨t, ht, hv, hpc, hframe⟩ := exec_writes (exec_randomByte x nn s)
  exact ⟨t, ht, hv, hpc, onlyRequest_of_askRandom hframe⟩

end Sys2Proof.Machine

/-! The data pointer and the decimal digits: where `I` goes, which bytes a store leaves, and what it leaves when memory
ends (`43_pointer_memory.md`). -/

namespace Sys2Proof.Machine

open Sys2Proof

/-! ### The rules, one equation per instruction (R110 to R113) -/

theorem exec_setPointer (nnn : Address) (s : State) :
    exec (.setPointer nnn) s = .next (advance (setI s (zextAddress nnn))) := rfl

theorem exec_addToPointer (x : Reg) (s : State) :
    exec (.addToPointer x) s = .next (advance (setI s (s.i + zextByte (getV s x)))) := rfl

theorem exec_getCharacterIndex (x : Reg) (s : State) :
    exec (.getCharacterIndex x) s = .next (advance (setI s (glyphAddress (getV s x)))) := rfl

theorem exec_toDecimal (x : Reg) (s : State) :
    exec (.toDecimal x) s =
      andThen (storeBytes (decimalDigits (getV s x)) s.i.toNat s) fun t => .next (advance t) := by
  rw [← pointerAddress_zero]
  rfl

/-! ### Writes of `I` (R110 to R112) -/

theorem add_zextByte_toNat (w : Word) (b : Byte) : (w + zextByte b).toNat = (w.toNat + b.toNat) % 65536 := by
  rw [BitVec.toNat_add, zextByte_toNat]

theorem onlyPointer_advance_setI (s : State) (w : Word) : OnlyPointer s (advance (setI s w)) :=
  ⟨fun _ _ => rfl, ⟨rfl, rfl, rfl⟩, ⟨rfl, rfl, rfl, rfl⟩, sameMemory_of_eq rfl rfl⟩

/-- The rule of an instruction whose one effect, beside the sequential `pc` update, is a write of `I`. -/
theorem exec_setsPointer {i : Instr} {s : State} {w : Word} {n : Nat} (h : exec i s = .next (advance (setI s w)))
    (hn : w.toNat = n) : ∃ t, exec i s = .next t ∧ t.i.toNat = n ∧ PcPlus s t 2 ∧ OnlyPointer s t :=
  ⟨_, h, hn, pcPlus_two rfl, onlyPointer_advance_setI s w⟩

/-- Settles O38: each of the three writes `I` alone, with a value that is the stated number. -/
theorem pointerInstructionsSetI : Obligations.PointerInstructionsSetI := fun s nnn x =>
  ⟨exec_setsPointer (exec_setPointer nnn s) (zextAddress_toNat nnn),
    exec_setsPointer (exec_addToPointer x s) (add_zextByte_toNat s.i (getV s x)),
    exec_setsPointer (exec_getCharacterIndex x s) (glyphAddress_toNat (getV s x))⟩

/-! ### Bytes stored from an address on, byte by byte (R40, R42) -/

/-- Where all the bytes fit, the store completes: byte `k` stands at the address `k` past the first. -/
theorem storeBytes_of_fits {bs : List Byte} {a : Nat} {s : State} (h : a + bs.length ≤ s.config.memSize) :
    ∃ m, storeBytes bs a s = .next (setMem s m) ∧ SameMemoryOutside s (setMem s m) a bs.length ∧
      ∀ k < bs.length, readByte (setMem s m) (a + k) = bs[k]? := by
  obtain ⟨m, hstore, hread⟩ := storeBytes_next bs a s (by omega) (.inr (by omega))
  refine ⟨m, hstore, fun c hc => ?_, fun k hk => ?_⟩
  · rw [hread, if_neg (by omega)]
  · rw [hread, if_pos (by omega), add_sub_cancel_left, Int.toNat_natCast]

/-- Where a byte does not fit, the store faults at the first address that does not exist: byte `k` stands at the address
`k` past the first as far as memory goes. -/
theorem storeBytes_of_overruns {bs : List Byte} {a : Nat} {s : State} (hne : bs ≠ [])
    (h : s.config.memSize < a + bs.length) :
    ∃ m, storeBytes bs a s = raiseOutOfBounds (max a s.config.memSize) (setMem s m) ∧
      SameMemoryOutside s (setMem s m) a bs.length ∧
      ∀ k < bs.length, a + k < s.config.memSize → readByte (setMem s m) (a + k) = bs[k]? := by
  obtain ⟨m, hstore, hread⟩ := storeBytes_fault bs a s (by omega) (by omega) hne
  refine ⟨m, hstore, fun c hc => ?_, fun k hk hmem => ?_⟩
  · rw [hread, if_neg (by omega)]
  · rw [hread, if_pos (by omega), add_sub_cancel_left, Int.toNat_natCast]

/-! ### The three digits (R113) -/

/-- The digits as numbers: none of them wraps in its byte. -/
theorem decimalDigits_eq (b : Byte) :
    ∃ h d o, decimalDigits b = [h, d, o] ∧ h.toNat = b.toNat / 100 ∧ d.toNat = b.toNat / 10 % 10 ∧
      o.toNat = b.toNat % 10 := by
  have hb := b.isLt
  refine ⟨_, _, _, rfl, ?_, ?_, ?_⟩ <;> rw [BitVec.toNat_ofNat] <;> omega

/-- Settles O39: the store of the three digits completes, and the sequential `pc` update is all that follows it. -/
theorem decimalDigitsAreStored : Obligations.DecimalDigitsAreStored := by
  unfold Obligations.DecimalDigitsAreStored
  intro s x hfits
  obtain ⟨h, d, o, hdigits, hh, hd, ho⟩ := decimalDigits_eq (getV s x)
  obtain ⟨m, hstore, hout, hread⟩ := storeBytes_of_fits (bs := decimalDigits (getV s x)) hfits
  have hexec : exec (.toDecimal x) s = .next (advance (setMem s m)) := by
    rw [exec_toDecimal, hstore]
    rfl
  rw [hdigits] at hread
  have hfirst : readByte (setMem s m) s.i.toNat = some h := by simpa using hread 0 (by simp)
  exact ⟨_, h, d, o, hexec, hfirst, hread 1 (by simp), hread 2 (by simp), hh, hd, ho, hout, pcPlus_two rfl, rfl,
    fun _ _ => rfl, ⟨rfl, rfl, rfl⟩, ⟨rfl, rfl, rfl, rfl⟩⟩

/-- Settles O40: the store of the digits faults, so nothing follows it, and only memory differs from before. -/
theorem decimalDigitsFault : Obligations.DecimalDigitsFault := by
  unfold Obligations.DecimalDigitsFault
  intro s x hoverruns
  obtain ⟨m, hstore, hout, hread⟩ :=
    storeBytes_of_overruns (bs := decimalDigits (getV s x)) (List.cons_ne_nil _ _) hoverruns
  have hexec : exec (.toDecimal x) s = raiseOutOfBounds (max s.i.toNat s.config.memSize) (setMem s m) := by
    rw [exec_toDecimal, hstore, andThen_raise]
  exact ⟨_, hexec, faultLeaves_setMem s m .outOfBounds, fun _ _ => rfl, hout, hread⟩

end Sys2Proof.Machine

/-! Devices and timers: the one request an instruction issues, what it does with the answer, and that nothing else
changes (`44_devices_timers.md`). -/

namespace Sys2Proof.Machine

open Sys2Proof

/-! ### The rules, one equation per instruction (R120 to R124, R126, R127) -/

theorem exec_clearScreen (s : State) : exec .clearScreen s = .next (advance (issue s .clear)) := rfl

/-- With its rows read, `drawSprite` writes one register, VF, after one call of the display. -/
theorem exec_drawSprite_of_rows {n : Nibble} {s : State} {rows : List Byte}
    (h : readBytes s n.toNat s.i.toNat = .ok rows) (x y : Reg) :
    exec (.drawSprite x y n) s =
      writeAndAdvance (askDraw s (getV s x) (getV s y) rows) vf
        (flagByte (collidedAnswer s (getV s x) (getV s y) rows)) := by
  rw [← pointerAddress_zero] at h
  simp only [exec, execDrawSprite, h]
  rfl

theorem exec_drawSprite_of_missingRow {n : Nibble} {s : State} {a : Int}
    (h : readBytes s n.toNat s.i.toNat = .error a) (x y : Reg) :
    exec (.drawSprite x y n) s = raiseOutOfBounds a s := by
  rw [← pointerAddress_zero] at h
  simp only [exec, execDrawSprite, h]

theorem exec_skipIfKeyPressed (x : Reg) (s : State) :
    exec (.skipIfKeyPressed x) s =
      .next (skipIf (askPressed s (keyOperand s x)) (pressedAnswer s (keyOperand s x))) := rfl

theorem exec_skipIfKeyNotPressed (x : Reg) (s : State) :
    exec (.skipIfKeyNotPressed x) s =
      .next (skipIf (askPressed s (keyOperand s x)) (!pressedAnswer s (keyOperand s x))) := rfl

theorem exec_getDelayTimer (x : Reg) (s : State) : exec (.getDelayTimer x) s = writeAndAdvance s x s.dt := rfl

theorem exec_setDelayTimer (x : Reg) (s : State) :
    exec (.setDelayTimer x) s = .next (advance (setDT s (getV s x))) := rfl

theorem exec_setSoundTimer (x : Reg) (s : State) :
    exec (.setSoundTimer x) s = .next (advance (setST s (getV s x))) := rfl

/-! ### One request, then registers alone (R154, R155) -/

theorem onlyRequest_issue (s : State) (r : Request) : OnlyRequest s (issue s r) r s.host [] :=
  ⟨fun _ _ => rfl, rfl, ⟨rfl, rfl, rfl⟩, sameMemory_of_eq rfl rfl, rfl, rfl, rfl, rfl⟩

theorem onlyRequest_askPressed (s : State) (k : Nibble) :
    OnlyRequest s (askPressed s k) (.isPressed k) { s.host with pressed := s.host.pressed.tail } [] :=
  ⟨fun _ _ => rfl, rfl, ⟨rfl, rfl, rfl⟩, sameMemory_of_eq rfl rfl, rfl, rfl, rfl, rfl⟩

theorem onlyRequest_askDraw (s : State) (x y : Byte) (rows : List Byte) :
    OnlyRequest s (askDraw s x y rows) (.draw x y rows) { s.host with collided := s.host.collided.tail } [] :=
  ⟨fun _ _ => rfl, rfl, ⟨rfl, rfl, rfl⟩, sameMemory_of_eq rfl rfl, rfl, rfl, rfl, rfl⟩

/-- What follows a request on registers and `pc` alone issues no other. -/
theorem onlyRequest_then_onlyRegisters {s u t : State} {r : Request} {host : HostScript} {rs : List Reg}
    (hask : OnlyRequest s u r host []) (hthen : OnlyRegisters u t rs) : OnlyRequest s t r host rs := by
  obtain ⟨hregs, hi, ⟨hstack, hdt, hst⟩, hmem, hstatus, hconfig, hrequests, hhost⟩ := hask
  obtain ⟨hregs', hi', ⟨hstack', hdt', hst'⟩, ⟨hstatus', hconfig', hrequests', hhost'⟩, hmem'⟩ := hthen
  exact ⟨fun q hq => (hregs' q hq).trans (hregs q List.not_mem_nil), hi'.trans hi,
    ⟨hstack'.trans hstack, hdt'.trans hdt, hst'.trans hst⟩, fun a => (hmem' a).trans (hmem a),
    hstatus'.trans hstatus, hconfig'.trans hconfig, hrequests'.trans hrequests, hhost'.trans hhost⟩

/-! ### The display (R120, R121) -/

/-- Settles O48: the rows are read in full, and then the display's answer is written to VF alone. -/
theorem drawSpriteSendsRows : Obligations.DrawSpriteSendsRows := by
  unfold Obligations.DrawSpriteSendsRows
  intro s x y n hexist
  have hbound : n.toNat = 0 ∨ (s.i.toNat : Int) + n.toNat ≤ s.config.memSize :=
    hexist.imp (congrArg BitVec.toNat) fun hfits => mod_cast hfits
  obtain ⟨rows, hread, hlength, hrows⟩ := readBytes_ok s n.toNat s.i.toNat (by omega) hbound
  obtain ⟨t, ht, hflag, hpc, hframe⟩ := exec_writes (exec_drawSprite_of_rows hread x y)
  exact ⟨t, rows, ht, hlength, hrows, hflag, hpc,
    onlyRequest_then_onlyRegisters (onlyRequest_askDraw s _ _ rows) hframe⟩

/-- Settles O49: the reads come before the call of the display, so a read that fails leaves all as it was. -/
theorem drawSpriteFaults : Obligations.DrawSpriteFaults := by
  unfold Obligations.DrawSpriteFaults
  intro s x y n hn hmissing
  have hn' : n.toNat ≠ 0 := fun h => hn (BitVec.eq_of_toNat_eq h)
  exact exec_drawSprite_of_missingRow (readBytes_error s n.toNat s.i.toNat (by omega) hn' (mod_cast hmissing)) x y

/-- Settles O47: the request, then the sequential `pc` update. -/
theorem clearScreenIssuesOneClear : Obligations.ClearScreenIssuesOneClear := fun s =>
  ⟨_, exec_clearScreen s, pcPlus_two rfl,
    onlyRequest_then_onlyRegisters (onlyRequest_issue s .clear) (onlyRegisters_setPc _ _)⟩

/-! ### The skips on a key (R122, R123) -/

theorem keyOperand_of_toNat {s : State} {x : Reg} {k : Nibble} (h : k.toNat = (getV s x).toNat % 16) :
    keyOperand s x = k :=
  BitVec.eq_of_toNat_eq ((keyOperand_toNat s x).trans h.symm)

/-- The rule of an instruction that asks the keyboard about one key and skips on `c`. -/
theorem exec_asksAndSkips {i : Instr} {s : State} {k : Nibble} {c : Bool}
    (h : exec i s = .next (skipIf (askPressed s k) c)) :
    ∃ t, exec i s = .next t ∧ PcPlus s t (if c then 4 else 2) ∧
      OnlyRequest s t (.isPressed k) { s.host with pressed := s.host.pressed.tail } [] :=
  ⟨_, h, pcPlus_skipIf (askPressed s k) c,
    onlyRequest_then_onlyRegisters (onlyRequest_askPressed s k) (onlyRegisters_skipIf _ c)⟩

/-- Settles O50: both ask about the same key, and skip on the answer and on its negation. -/
theorem skipsOnKey : Obligations.SkipsOnKey := by
  unfold Obligations.SkipsOnKey
  intro s x k hk
  obtain rfl := keyOperand_of_toNat hk
  refine ⟨exec_asksAndSkips (exec_skipIfKeyPressed x s), ?_⟩
  obtain ⟨t, ht, hpc, hrequest⟩ := exec_asksAndSkips (exec_skipIfKeyNotPressed x s)
  refine ⟨t, ht, ?_, hrequest⟩
  cases hanswer : pressedAnswer s (keyOperand s x) <;> simpa [hanswer] using hpc

/-! ### The timers (R124, R126, R127) -/

/-- Settles O51: the read of DT writes one register, and each of the two writes changes its timer alone. -/
theorem timerMoves : Obligations.TimerMoves := fun s x =>
  ⟨exec_writes (exec_getDelayTimer x s),
    ⟨_, exec_setDelayTimer x s, rfl, pcPlus_two rfl, fun _ _ => rfl, rfl, rfl, rfl, ⟨rfl, rfl, rfl, rfl⟩,
      sameMemory_of_eq rfl rfl⟩,
    ⟨_, exec_setSoundTimer x s, rfl, pcPlus_two rfl, fun _ _ => rfl, rfl, rfl, rfl, ⟨rfl, rfl, rfl, rfl⟩,
      sameMemory_of_eq rfl rfl⟩⟩

end Sys2Proof.Machine

/-! Faults and requests: where an instruction can fault and what it then leaves, how many requests it issues, and the
hold of `awaitKeyPress` up to the delivery of its key (`60_exceptions.md`). -/

namespace Sys2Proof.Machine

open Sys2Proof

/-! ### The hold and the delivery of a key (R125, R150, R155) -/

theorem exec_awaitKeyPress (x : Reg) (s : State) :
    exec (.awaitKeyPress x) s = .next (setStatus (issue s .awaitKeyPress) .waiting) := rfl

/-- A key fits in a register: zero-extended it is the same number. -/
theorem getV_takenKey_toNat (s : State) (x : Reg) (k : Nibble) :
    (getV (setV s x (k.setWidth 8)) x).toNat = k.toNat := by
  rw [getV_setV_same, BitVec.toNat_setWidth_of_le (by decide)]

/-- Settles O52: the hold moves neither `pc` nor memory, so the delivery finds the same word at `pc`, and it writes the
key over what was there before the instruction. -/
theorem awaitKeyPressCompletes : Obligations.AwaitKeyPressCompletes := by
  unfold Obligations.AwaitKeyPressCompletes
  intro s w x hf hd
  refine ⟨_, exec_awaitKeyPress x s, rfl, rfl, fun k => ?_⟩
  have hpending : fetch (setStatus (issue s .awaitKeyPress) .waiting) = some w := by
    rwa [fetch_setStatus, fetch_issue]
  exact ⟨_, deliverKey_of_fetch k hpending hd, getV_takenKey_toNat _ x k, pcPlus_two rfl, rfl,
    sameRegistersBut_setV s x _, rfl, ⟨rfl, rfl, rfl⟩, sameMemory_of_eq rfl rfl, rfl, rfl, rfl⟩

/-! ### How many requests an instruction issues (R157) -/

/-- Settles O58, by the kind: the six that call a device do so once, and no other touches the log. -/
theorem atMostOneRequestPerInstruction : Obligations.AtMostOneRequestPerInstruction := by
  unfold Obligations.AtMostOneRequestPerInstruction
  intro i s t h
  cases i with
  | clearScreen | randomByte | skipIfKeyPressed | skipIfKeyNotPressed | awaitKeyPress =>
    cases h
    exact .inr ⟨_, rfl⟩
  | drawSprite =>
    obtain ⟨_, _, rfl⟩ := exec_drawSprite_next h
    exact .inr ⟨_, rfl⟩
  | returnSubroutine => obtain rfl | ⟨_, rfl⟩ := exec_returnSubroutine_next h <;> exact .inl rfl
  | callSubroutine => obtain ⟨-, rfl⟩ := exec_callSubroutine_next h; exact .inl rfl
  | toDecimal => obtain ⟨_, rfl, -⟩ := exec_toDecimal_next h; exact .inl rfl
  | storeRegisters => obtain ⟨_, rfl, -⟩ := exec_storeRegisters_next h; exact .inl rfl
  | loadRegisters => obtain ⟨_, rfl, -⟩ := exec_loadRegisters_next h; exact .inl rfl
  | _ => cases h; exact .inl rfl

/-! ### Where an instruction faults, and what it leaves (R140 to R142, R146) -/

/-- The fault of an access from `s` on to an address that does not exist (R141), with the state that R146 says it
leaves. -/
def IsAccessFault (s : State) (r : Fault) : Prop :=
  ∃ addr l, r = .outOfBounds addr l ∧ inRange s addr = false ∧ FaultLeaves s l .outOfBounds

/-- Where `andThen` faults and its second part cannot, the first part does. -/
theorem andThen_next_eq_fault {o : Result} {f : State → State} {r : Fault}
    (h : andThen o (fun t => .next (f t)) = .fault r) : o = .fault r := by
  cases o with
  | next => cases h
  | fault => exact h
  | refused => cases h

theorem storeBytes_eq_fault {bs : List Byte} {a : Int} {s : State} {r : Fault} (h : storeBytes bs a s = .fault r) :
    IsAccessFault s r := by
  obtain ⟨m, -, -, hs | ⟨k, -, hrange, hs⟩⟩ := storeBytes_cases bs a s
  · rw [hs] at h
    cases h
  · rw [hs] at h
    cases h
    exact ⟨_, _, rfl, hrange, faultLeaves_setMem s m .outOfBounds⟩

theorem loadBytes_eq_fault {rs : List Reg} {a : Int} {s : State} {r : Fault} (h : loadBytes rs a s = .fault r) :
    IsAccessFault s r := by
  obtain ⟨u, -, hs | ⟨k, -, hrange, hs⟩⟩ := loadBytes_cases rs a s
  · rw [hs] at h
    cases h
  · rw [hs] at h
    cases h
    exact ⟨_, _, rfl, hrange, faultLeaves_setRegs s u .outOfBounds⟩

/-- The rows are read before anything is changed. -/
theorem exec_drawSprite_fault {x y : Reg} {n : Nibble} {s : State} {r : Fault}
    (h : exec (.drawSprite x y n) s = .fault r) : IsAccessFault s r := by
  cases hread : readBytes s n.toNat s.i.toNat with
  | ok rows =>
    rw [exec_drawSprite_of_rows hread] at h
    cases h
  | error a =>
    rw [exec_drawSprite_of_missingRow hread] at h
    cases h
    exact ⟨a, _, rfl, readBytes_error_inRange s _ _ a hread, faultLeaves_setMem s s.mem .outOfBounds⟩

theorem exec_callSubroutine_fault {nnn : Address} {s : State} {r : Fault}
    (h : exec (.callSubroutine nnn) s = .fault r) :
    s.config.stackLimit = some s.stack.length ∧ r = .stackOverflow (faultedAt s .stackOverflow) := by
  by_cases hfull : s.config.stackLimit = some s.stack.length
  · rw [exec_callSubroutine_of_full hfull] at h
    cases h
    exact ⟨hfull, rfl⟩
  · rw [exec_callSubroutine_of_room hfull] at h
    cases h

/-- A fault of a kind that uses memory is one of an access. -/
theorem exec_fault_of_usesMemory {i : Instr} {s : State} {r : Fault} (hi : i.usesMemory = true)
    (h : exec i s = .fault r) : IsAccessFault s r := by
  cases i with
  | drawSprite => exact exec_drawSprite_fault h
  | toDecimal | storeRegisters => exact storeBytes_eq_fault (andThen_next_eq_fault h)
  | loadRegisters => exact loadBytes_eq_fault (andThen_next_eq_fault h)
  | _ => cases hi

/-- A fault of a kind that uses no memory is one of a call. -/
theorem exec_fault_of_not_usesMemory {i : Instr} {s : State} {r : Fault} (hi : i.usesMemory = false)
    (h : exec i s = .fault r) : ∃ nnn, i = .callSubroutine nnn := by
  cases i with
  | callSubroutine nnn => exact ⟨nnn, rfl⟩
  | drawSprite | toDecimal | storeRegisters | loadRegisters => cases hi
  | returnSubroutine =>
    obtain hnil | ⟨_, _, happend⟩ := s.stack.eq_nil_or_concat'
    · rw [exec_returnSubroutine_of_nil hnil] at h
      cases h
    · rw [exec_returnSubroutine_of_append happend] at h
      cases h
  | _ => cases h

/-- Settles O59, by whether the kind uses memory: if it does, one of its accesses failed; if it does not, it is a call,
and the stack was full. -/
theorem instructionFaultsAreTheListed : Obligations.InstructionFaultsAreTheListed := by
  unfold Obligations.InstructionFaultsAreTheListed
  intro i s r h
  cases hi : i.usesMemory with
  | true =>
    obtain ⟨addr, l, hr, hrange, hleft⟩ := exec_fault_of_usesMemory hi h
    exact .inl ⟨addr, l, hr, rfl, hrange, hleft⟩
  | false =>
    obtain ⟨nnn, rfl⟩ := exec_fault_of_not_usesMemory hi h
    obtain ⟨hfull, hr⟩ := exec_callSubroutine_fault h
    exact .inr ⟨nnn, rfl, hfull, hr⟩

end Sys2Proof.Machine

/-! Registers stored to memory and loaded from it: what each transfer leaves, what is left of it where memory ends, and
what is read back (`43_pointer_memory.md`, `20_memory.md` section 6). -/

namespace Sys2Proof.Machine

open Sys2Proof

/-! ### The rules, the transfer's first address as a number (R114, R115) -/

/-- The bytes that `storeRegisters` stores: `V[0]` to `V[X]`. -/
def registerBytes (s : State) (x : Reg) : List Byte := (registersThrough x).map (getV s)

theorem exec_storeRegisters (x : Reg) (s : State) :
    exec (.storeRegisters x) s =
      andThen (storeBytes (registerBytes s x) s.i.toNat s) fun t => .next (advance (setI t (pointerPast s x))) := by
  rw [← pointerAddress_zero]
  rfl

theorem exec_loadRegisters (x : Reg) (s : State) :
    exec (.loadRegisters x) s =
      andThen (loadBytes (registersThrough x) s.i.toNat s) fun t => .next (advance (setI t (pointerPast s x))) := by
  rw [← pointerAddress_zero]
  rfl

/-- `V[r]` is among `V[0]` to `V[X]` at its own place. -/
theorem val_lt_registersThrough_length {x r : Reg} (h : r ≤ x) : r.val < (registersThrough x).length := by
  rw [registersThrough_length]
  exact Nat.lt_succ_of_le h

/-! ### Stores (R114) -/

theorem registerBytes_length (s : State) (x : Reg) : (registerBytes s x).length = x.val + 1 := by
  rw [registerBytes, List.length_map, registersThrough_length]

theorem registerBytes_ne_nil (s : State) (x : Reg) : registerBytes s x ≠ [] :=
  mt List.map_eq_nil_iff.1 (registersThrough_ne_nil x)

theorem registerBytes_getElem? (s : State) {x r : Reg} (h : r ≤ x) : (registerBytes s x)[r.val]? = some (getV s r) := by
  rw [registerBytes, List.getElem?_map, registersThrough_getElem? x r h, Option.map_some]

/-- Settles O41: the store of the registers completes, and the writes of `I` and `pc` are all that follows it. -/
theorem registersAreStored : Obligations.RegistersAreStored := by
  unfold Obligations.RegistersAreStored
  intro s x hfits
  have hlength := registerBytes_length s x
  have hbytes : s.i.toNat + (registerBytes s x).length ≤ s.config.memSize := by omega
  obtain ⟨m, hstore, hout, hread⟩ := storeBytes_of_fits hbytes
  have hexec : exec (.storeRegisters x) s = .next (advance (setI (setMem s m) (pointerPast s x))) := by
    rw [exec_storeRegisters, hstore]
    rfl
  rw [hlength] at hout hread
  exact ⟨_, hexec, fun r hr => (hread r (Nat.lt_succ_of_le hr)).trans (registerBytes_getElem? s hr), hout,
    pointerPast_toNat s x, pcPlus_two rfl, fun _ _ => rfl, ⟨rfl, rfl, rfl⟩, ⟨rfl, rfl, rfl, rfl⟩⟩

/-- Settles O42: the store of the registers faults, so `I` and `pc` are not written, and only memory differs from
before. -/
theorem registerStoreFaults : Obligations.RegisterStoreFaults := by
  unfold Obligations.RegisterStoreFaults
  intro s x hoverruns
  have hlength := registerBytes_length s x
  have hbytes : s.config.memSize < s.i.toNat + (registerBytes s x).length := by omega
  obtain ⟨m, hstore, hout, hread⟩ := storeBytes_of_overruns (registerBytes_ne_nil s x) hbytes
  have hexec : exec (.storeRegisters x) s = raiseOutOfBounds (max s.i.toNat s.config.memSize) (setMem s m) := by
    rw [exec_storeRegisters, hstore, andThen_raise]
  rw [hlength] at hout hread
  exact ⟨_, hexec, faultLeaves_setMem s m .outOfBounds, fun _ _ => rfl, hout,
    fun r hr hmem => (hread r (Nat.lt_succ_of_le hr) hmem).trans (registerBytes_getElem? s hr)⟩

/-! ### Loads (R115) -/

/-- Where all the bytes exist, the load completes: `V[r]` holds the byte `r` past the first. -/
theorem loadRegisters_of_fits {x : Reg} {a : Nat} {s : State} (h : a + x.val + 1 ≤ s.config.memSize) :
    ∃ u, loadBytes (registersThrough x) a s = .next (setRegs s u) ∧
      (∀ r ≤ x, some (getV (setRegs s u) r) = readByte s (a + r.val)) ∧
      ∀ r, x < r → getV (setRegs s u) r = getV s r := by
  have hlength := registersThrough_length x
  obtain ⟨u, hload, hin, hout⟩ :=
    loadBytes_next (registersThrough x) a s (by omega) (.inr (by omega)) (registersThrough_nodup x)
  refine ⟨u, hload, fun r hr => ?_, fun r hr => hout r (by simpa using hr)⟩
  have hk := val_lt_registersThrough_length hr
  simpa only [registersThrough_getElem x r hr hk] using hin r hk

/-- Where a byte does not exist, the load faults at the first address that does not: `V[r]` holds the byte `r` past the
first as far as memory goes, and the registers after it hold what they held. -/
theorem loadRegisters_of_overruns {x : Reg} {a : Nat} {s : State} (h : s.config.memSize < a + x.val + 1) :
    ∃ u, loadBytes (registersThrough x) a s = raiseOutOfBounds (max a s.config.memSize) (setRegs s u) ∧
      (∀ r ≤ x, a + r.val < s.config.memSize → some (getV (setRegs s u) r) = readByte s (a + r.val)) ∧
      ∀ r : Reg, x < r ∨ s.config.memSize ≤ a + r.val → getV (setRegs s u) r = getV s r := by
  have hlength := registersThrough_length x
  obtain ⟨u, hload, hin, hpast, hout⟩ := loadBytes_fault (registersThrough x) a s (by omega) (by omega)
    (registersThrough_ne_nil x) (registersThrough_nodup x)
  refine ⟨u, hload, fun r hr hmem => ?_, fun r hr => ?_⟩
  · have hk := val_lt_registersThrough_length hr
    simpa only [registersThrough_getElem x r hr hk] using hin r hk (by omega)
  · by_cases hx : r ≤ x
    · have hk := val_lt_registersThrough_length hx
      have hmissing := hr.resolve_left hx.not_gt
      simpa only [registersThrough_getElem x r hx hk] using hpast r hk (by omega)
    · exact hout r (by simpa using hx)

/-- Settles O43: the load of the registers completes, and the writes of `I` and `pc` are all that follows it. -/
theorem registersAreLoaded : Obligations.RegistersAreLoaded := by
  unfold Obligations.RegistersAreLoaded
  intro s x hfits
  obtain ⟨u, hload, hin, hout⟩ := loadRegisters_of_fits hfits
  have hexec : exec (.loadRegisters x) s = .next (advance (setI (setRegs s u) (pointerPast s x))) := by
    rw [exec_loadRegisters, hload]
    rfl
  exact ⟨_, hexec, hin, hout, pointerPast_toNat s x, pcPlus_two rfl, sameMemory_of_eq rfl rfl, ⟨rfl, rfl, rfl⟩,
    ⟨rfl, rfl, rfl, rfl⟩⟩

/-- Settles O44: the load of the registers faults, so `I` and `pc` are not written, and only registers differ from
before. -/
theorem registerLoadFaults : Obligations.RegisterLoadFaults := by
  unfold Obligations.RegisterLoadFaults
  intro s x hoverruns
  obtain ⟨u, hload, hin, hout⟩ := loadRegisters_of_overruns hoverruns
  have hexec : exec (.loadRegisters x) s = raiseOutOfBounds (max s.i.toNat s.config.memSize) (setRegs s u) := by
    rw [exec_loadRegisters, hload, andThen_raise]
  exact ⟨_, hexec, faultLeaves_setRegs s u .outOfBounds, sameMemory_of_eq rfl rfl, hin, hout⟩

/-! ### Reading back what was stored (S11, R45) -/

/-- A store that completes had all its bytes in memory. -/
theorem fits_of_exec_storeRegisters {x : Reg} {s t : State} (h : exec (.storeRegisters x) s = .next t) :
    s.i.toNat + x.val + 1 ≤ s.config.memSize := by
  by_contra hoverruns
  obtain ⟨l, hfault, -⟩ := registerStoreFaults s x (by omega)
  rw [h] at hfault
  cases hfault

/-- Each register stored reads back at its address. -/
theorem readByte_of_exec_storeRegisters {x : Reg} {s t : State} (h : exec (.storeRegisters x) s = .next t) {r : Reg}
    (hr : r ≤ x) : readByte t (s.i.toNat + r.val) = some (getV s r) := by
  obtain ⟨t', ht', hread, -⟩ := registersAreStored s x (fits_of_exec_storeRegisters h)
  obtain rfl : t = t' := Host.Outcome.next.inj (h.symm.trans ht')
  exact hread r hr

/-- Settles O45: the bytes exist, since the store completed, so the load completes too, and it reads what was stored. -/
theorem storeThenLoadRoundTrips : Obligations.StoreThenLoadRoundTrips := by
  unfold Obligations.StoreThenLoadRoundTrips
  intro s t u x h hmem hconfig hi
  have hfits : u.i.toNat + x.val + 1 ≤ u.config.memSize := by
    rw [hi, hconfig, exec_config h]
    exact fits_of_exec_storeRegisters h
  obtain ⟨w, hw, hin, hout, -⟩ := registersAreLoaded u x hfits
  refine ⟨w, hw, fun r hr => Option.some.inj ?_, hout⟩
  calc some (getV w r) = readByte u (u.i.toNat + r.val) := hin r hr
    _ = readByte t (s.i.toNat + r.val) := by rw [hi, readByte_congr hmem hconfig]
    _ = some (getV s r) := readByte_of_exec_storeRegisters h hr

/-- Settles O46: `pc` in `t` is the `I` of the store, and the first two bytes stored there are `V[0]` and `V[1]`. -/
theorem storeIsSeenByTheNextFetch : Obligations.StoreIsSeenByTheNextFetch := by
  unfold Obligations.StoreIsSeenByTheNextFetch
  intro s t x hx hi h
  have hpc : t.pc.toNat = s.i.toNat := by
    obtain ⟨m, rfl, -⟩ := exec_storeRegisters_next h
    have hplus : PcPlus s (advance (setI (setMem s m) (pointerPast s x))) 2 := pcPlus_two rfl
    have hlt := s.i.isLt
    unfold PcPlus at hplus
    omega
  have hhi : readByte t t.pc.toNat = some (getV s 0) := by
    simpa [hpc] using readByte_of_exec_storeRegisters h (Fin.zero_le x)
  have hlo : readByte t (t.pc.toNat + 1) = some (getV s 1) := by
    rw [hpc]
    exact readByte_of_exec_storeRegisters h (r := 1) hx
  exact readShort_of_bytes hhi hlo

end Sys2Proof.Machine

/-! The rows of the opcode map against each other (`30_encoding.md` section 4). -/

namespace Sys2Proof

/-- Settles O9: a word has one decoding, so two rows that it matches bear the name of one kind. -/
theorem opcodeRowsAreDisjoint : Obligations.OpcodeRowsAreDisjoint := by
  unfold Obligations.OpcodeRowsAreDisjoint
  intro w r q hr hq hrw hqw
  obtain ⟨i, hi, hir⟩ := (decodeFollowsOpcodeTable w r hr).1 hrw
  obtain ⟨j, hj, hjq⟩ := (decodeFollowsOpcodeTable w q hq).1 hqw
  obtain rfl : i = j := Except.ok.inj (hi.symm.trans hj)
  exact row_eq_of_mnemonic_eq hr hq (hir.symm.trans hjq)

end Sys2Proof

/-! The host's moves on a running, a waiting and a faulted machine, and that none is refused (`60_exceptions.md`
sections 2 and 3). -/

namespace Sys2Proof.Machine

open Sys2Proof

/-! ### One step, by status (R147, R150) -/

theorem step_of_running {s : State} (h : s.status = .running) :
    step s = moveWhileRunning (nextMove s) (dropMove s) := by
  simp only [step, h]

theorem step_of_waiting {s : State} (h : s.status = .waiting) :
    step s = moveWhileWaiting (nextMove s) (dropMove s) := by
  simp only [step, h]

/-- Settles O15: that is the step's own rule for the status. -/
theorem faultedMachineTakesNoStep : Obligations.FaultedMachineTakesNoStep := by
  unfold Obligations.FaultedMachineTakesNoStep
  intro s f h
  simp only [step, h]

/-- Settles O18: the idle moves answer the state they are made on, and an empty script has no move to take off. -/
theorem movesThatChangeNothing : Obligations.MovesThatChangeNothing := by
  unfold Obligations.MovesThatChangeNothing
  intro s
  refine ⟨fun hwait hmove => ?_, fun hwait hmoves => ?_, fun k hrun hmove => ?_⟩
  · rw [step_of_waiting hwait, hmove]
    rfl
  · rw [step_of_waiting hwait, nextMove_nil hmoves, dropMove_of_nil hmoves]
    rfl
  · rw [step_of_running hrun, hmove]
    rfl

/-! ### A fetch that fails (R21, R141) -/

theorem fetch_eq_none_iff (s : State) : fetch s = none ↔ (s.config.memSize : Int) ≤ s.pc.toNat + 1 := by
  unfold fetch
  rw [readShort_eq_none]
  omega

theorem cycle_of_no_fetch {s : State} (h : fetch s = none) : cycle s = raiseOutOfBounds s.pc.toNat s := by
  simp only [cycle, h]

/-- Settles O14: the fetch fails before anything is changed. -/
theorem fetchOutsideMemoryFaults : Obligations.FetchOutsideMemoryFaults := by
  unfold Obligations.FetchOutsideMemoryFaults
  intro s hrun hmove hpc
  have hfetch : fetch (dropMove s) = none := (fetch_dropMove s).trans ((fetch_eq_none_iff s).2 hpc)
  rw [step_of_running hrun, hmove]
  exact cycle_of_no_fetch hfetch

/-! ### Timer ticks (R150, R153) -/

/-- A tick is the same step whether the machine runs or waits. -/
theorem step_of_timerTick {s : State} (hstatus : s.status = .running ∨ s.status = .waiting)
    (hmove : nextMove s = .timerTick) : step s = .next (tickTimers (dropMove s)) := by
  obtain hrun | hwait := hstatus
  · rw [step_of_running hrun, hmove]
    rfl
  · rw [step_of_waiting hwait, hmove]
    rfl

theorem dropMove_host_of_cons {s : State} {m : HostMove} {rest : List HostMove} (h : s.host.moves = m :: rest) :
    (dropMove s).host = { s.host with moves := rest } := by
  rw [dropMove_host, h, List.tail_cons]

/-- Settles O16: the tick counts each timer down on its own, and both stop at 0. -/
theorem timerTickCountsDown : Obligations.TimerTickCountsDown := by
  unfold Obligations.TimerTickCountsDown
  intro s rest hstatus hmoves
  refine ⟨_, step_of_timerTick hstatus (nextMove_cons hmoves), fun hdt => ?_, fun _ => countDown_toNat s.dt,
    fun hst => ?_, fun _ => countDown_toNat s.st, dropMove_host_of_cons hmoves, fun _ _ => rfl, rfl, rfl, rfl,
    sameMemory_of_eq rfl rfl, rfl, rfl, rfl⟩
  · exact (congrArg countDown hdt).trans countDown_zero
  · exact (congrArg countDown hst).trans countDown_zero

/-! ### The hold and its end (R125, R150) -/

/-- Settles O53: the request and the write of `status` are all the hold does. -/
theorem awaitKeyPressWaits : Obligations.AwaitKeyPressWaits := fun s x =>
  ⟨_, exec_awaitKeyPress x s, rfl, rfl, fun _ _ => rfl, rfl, ⟨rfl, rfl, rfl⟩, sameMemory_of_eq rfl rfl, rfl, rfl, rfl⟩

/-- Settles O17: the word fetched is still the `awaitKeyPress`, so the delivery ends its hold. -/
theorem keyEventCompletesWait : Obligations.KeyEventCompletesWait := by
  unfold Obligations.KeyEventCompletesWait
  intro s k rest w x hwait hmoves hf hd
  have hstep : step s = takeKey x k (dropMove s) := by
    rw [step_of_waiting hwait, nextMove_cons hmoves]
    exact deliverKey_of_fetch k ((fetch_dropMove s).trans hf) hd
  exact ⟨_, hstep, getV_takenKey_toNat _ x k, pcPlus_two rfl, rfl, sameRegistersBut_setV s x _, rfl, ⟨rfl, rfl, rfl⟩,
    sameMemory_of_eq rfl rfl, rfl, rfl, dropMove_host_of_cons hmoves⟩

/-! ### Nothing is refused (R54, R152, R19) -/

theorem storeBytes_ne_refused (bs : List Byte) (a : Int) (s : State) (r : Refusal) : storeBytes bs a s ≠ .refused r := by
  obtain ⟨m, -, -, hs | ⟨k, -, -, hs⟩⟩ := storeBytes_cases bs a s
  · rw [hs]
    nofun
  · rw [hs]
    nofun

theorem loadBytes_ne_refused (rs : List Reg) (a : Int) (s : State) (r : Refusal) : loadBytes rs a s ≠ .refused r := by
  obtain ⟨u, -, hs | ⟨k, -, -, hs⟩⟩ := loadBytes_cases rs a s
  · rw [hs]
    nofun
  · rw [hs]
    nofun

/-- Where the second part of `andThen` refuses nothing, the whole refuses only what the first part does. -/
theorem andThen_next_ne_refused {o : Result} {f : State → State} {r : Refusal} (h : o ≠ .refused r) :
    andThen o (fun t => .next (f t)) ≠ .refused r := by
  cases o with
  | next | fault => nofun
  | refused => exact h

theorem exec_ne_refused (i : Instr) (s : State) (r : Refusal) : exec i s ≠ .refused r := by
  cases i with
  | returnSubroutine =>
    obtain hnil | ⟨_, _, happend⟩ := s.stack.eq_nil_or_concat'
    · rw [exec_returnSubroutine_of_nil hnil]
      nofun
    · rw [exec_returnSubroutine_of_append happend]
      nofun
  | callSubroutine nnn =>
    by_cases hfull : s.config.stackLimit = some s.stack.length
    · rw [exec_callSubroutine_of_full hfull]
      nofun
    · rw [exec_callSubroutine_of_room hfull]
      nofun
  | drawSprite x y n =>
    cases hread : readBytes s n.toNat s.i.toNat with
    | ok rows =>
      rw [exec_drawSprite_of_rows hread]
      nofun
    | error a =>
      rw [exec_drawSprite_of_missingRow hread]
      nofun
  | toDecimal | storeRegisters => exact andThen_next_ne_refused (storeBytes_ne_refused _ _ s r)
  | loadRegisters => exact andThen_next_ne_refused (loadBytes_ne_refused _ _ s r)
  | _ => nofun

theorem cycle_ne_refused (s : State) (r : Refusal) : cycle s ≠ .refused r := by
  cases hf : fetch s with
  | none =>
    rw [cycle_of_no_fetch hf]
    nofun
  | some w =>
    have hcycle : cycle s = execute w s := by simp only [cycle, hf]
    rw [hcycle]
    cases hd : decode w with
    | ok i =>
      rw [execute_of_decode hd]
      exact exec_ne_refused i s r
    | error e =>
      rw [execute_of_reject hd]
      nofun

/-- What the invariant says of a waiting machine: its word at `pc` is an `awaitKeyPress` (R19). -/
theorem exists_fetch_of_awaitPending {s : State} (hwait : s.status = .waiting) (h : awaitPending s = true) :
    ∃ w x, fetch s = some w ∧ decode w = .ok (.awaitKeyPress x) := by
  unfold awaitPending at h
  split at h
  · rename_i x _ hword
    obtain ⟨w, hf, hd⟩ := Option.map_eq_some_iff.1 hword
    exact ⟨w, x, hf, hd⟩
  · cases h
  · exact absurd hwait ‹_›

/-- A key delivered to a well-formed waiting machine finds its `awaitKeyPress`. -/
theorem deliverKey_ne_refused {s : State} (hwait : s.status = .waiting) (hwf : s.wf = true) (k : Nibble) (r : Refusal) :
    deliverKey k s ≠ .refused r := by
  obtain ⟨-, -, -, hpending⟩ := (State.wf_iff s).1 hwf
  obtain ⟨w, x, hf, hd⟩ := exists_fetch_of_awaitPending hwait hpending
  rw [deliverKey_of_fetch k hf hd]
  nofun

/-- Settles O5: an instruction answers on every path, and so does a cycle; of the other moves only the delivery of a key
can be refused, and the invariant gives it its word. -/
theorem nothingIsRefused : Obligations.NothingIsRefused := by
  unfold Obligations.NothingIsRefused
  refine ⟨exec_ne_refused, fun s r hwf => ?_⟩
  cases hs : s.status with
  | running =>
    rw [step_of_running hs]
    cases nextMove s with
    | startCycle => exact cycle_ne_refused (dropMove s) r
    | timerTick | keyEvent => nofun
  | waiting =>
    rw [step_of_waiting hs]
    cases nextMove s with
    | keyEvent k => exact deliverKey_ne_refused (s := dropMove s) hs ((wf_dropMove s).trans hwf) k r
    | startCycle | timerTick => nofun
  | faulted f =>
    rw [faultedMachineTakesNoStep s f hs]
    nofun

end Sys2Proof.Machine
